-- ==== Sys2Proof/Word.lean ====
section
/-! DEFINITION. The word types of the block: bytes, 32-bit host words and window offsets (00_scope.md R7, R8).
Byte order and bit-field helpers stand in Machine/Ops.lean. -/

namespace Sys2Proof

/-- A byte: the unit of every frame and of the CRC (R7). -/
abbrev Byte := BitVec 8

/-- A host register or bus word (R8). -/
abbrev Word := BitVec 32

/-- An offset into the 256-byte register window (R8, R34). -/
abbrev Offset := BitVec 8

end Sys2Proof
end

