-- ==== Sys2Proof/Syntax.lean ====
section
/-! DEFINITION. The commands of the block, one constructor per row of spec/opcode_table.json, and the
names of the request and reply kinds (30_encoding.md R70 to R75). -/

namespace Sys2Proof

/-- A legal command (R72). `kind` is the four-bit field KIND as it stands in the word: a value that names
no kind of the operation is not illegal, it is the execution error BAD_KIND (R73). -/
inductive Instr where
  /-- `NOP` (R121). -/
  | nop
  /-- `CRC_INIT` (R104). -/
  | crcInit
  /-- `CRC_BYTE b` (R105). -/
  | crcByte (b : Byte)
  /-- `RX_CLEAR` (R124). -/
  | rxClear
  /-- `RX_PUSH b` (R125). -/
  | rxPush (b : Byte)
  /-- `ENCODE k` (R126). -/
  | encode (kind : BitVec 4)
  /-- `DECODE k` (R127). -/
  | decode (kind : BitVec 4)
  /-- `FIELD s` (R128). -/
  | field (sel : Byte)
  deriving DecidableEq, Repr

/-- The kinds that have a request frame: the rows of R75 whose `ENCODE` column says yes. -/
inductive RequestKind where
  | emergencyReset
  | reset
  | powerCycle
  | getVersion
  | getHousekeeping
  deriving DecidableEq, Repr

/-- `REQ_LEN[k]` (R7, R75): fixed by the source, not a parameter. -/
def RequestKind.len : RequestKind → Nat
  | .emergencyReset => 10
  | .reset => 3
  | .powerCycle => 3
  | .getVersion => 34
  | .getHousekeeping => 37

/-- The kinds that have a reply frame: the rows of R75 whose `DECODE` column says yes. -/
inductive ReplyKind where
  | getVersion
  | getHousekeeping
  | generic
  deriving DecidableEq, Repr

/-- `RPL_LEN[k]` (R7, R75): fixed by the source, not a parameter. -/
def ReplyKind.len : ReplyKind → Nat
  | .getVersion => 34
  | .getHousekeeping => 37
  | .generic => 3

end Sys2Proof
end

