-- ==== Sys2Proof/WellFormed.lean ====
section
/-! DEFINITION. What is well formed, as plain predicates beside the machine: a command word (41_frame_codec.md
R120) and a host access (20_memory.md R53). An `Instr` needs no check of its own: its operands are exactly as
wide as the fields of the word (30_encoding.md R70, R71), so every term of it stands for a legal word. The
decoder and the port have their own text in Decode.lean and Machine/Port.lean; obligations say that they agree. -/

namespace Sys2Proof

/-- The formula `legal` of R120, as the rule writes it: RSV is 0, OP is at most 7, KIND is 0 unless OP is 5 or 6,
IMM8 is 0 unless OP is 2, 4 or 7. -/
def legalWord (w : Word) : Bool :=
  w.extractLsb' 16 16 == 0 && decide ((w.extractLsb' 12 4).toNat ≤ 7)
    && (w.extractLsb' 8 4 == 0 || w.extractLsb' 12 4 == 5 || w.extractLsb' 12 4 == 6)
    && (w.extractLsb' 0 8 == 0 || w.extractLsb' 12 4 == 2 || w.extractLsb' 12 4 == 4 || w.extractLsb' 12 4 == 7)

/-- The reads R53 admits: one byte anywhere, four bytes at a multiple of four. -/
def admittedRead (off : Offset) (n : Nat) : Bool :=
  n == 1 || (n == 4 && off.toNat % 4 == 0)

/-- The writes R53 admits: four bytes at a multiple of four. -/
def admittedWrite (off : Offset) (n : Nat) : Bool :=
  n == 4 && off.toNat % 4 == 0

end Sys2Proof
end

