-- ==== Sys2Proof/Decode.lean ====
section
/-! DEFINITION. Reading a command word and writing one (30_encoding.md R70 to R73). The decoder is total
on 32-bit words and names the reason where it refuses; the encoder follows the table of R72. -/

namespace Sys2Proof

/-- `RSV`, bits 31:16 of a command word (R70). -/
def rsvOf (w : Word) : BitVec 16 := w.extractLsb' 16 16

/-- `OP`, bits 15:12 of a command word (R70). -/
def opOf (w : Word) : BitVec 4 := w.extractLsb' 12 4

/-- `KIND`, bits 11:8 of a command word (R70, R71). -/
def kindOf (w : Word) : BitVec 4 := w.extractLsb' 8 4

/-- `IMM8`, bits 7:0 of a command word (R70, R71). -/
def immOf (w : Word) : Byte := w.extractLsb' 0 8

/-- Why a word is illegal (R73: `RSV` not 0, a reserved `OP`, a must-be-zero field that is not 0). -/
inductive Illegal where
  | reservedBitsSet
  | reservedOp
  | kindNotZero
  | immNotZero
  deriving DecidableEq, Repr

/-- A command that uses neither KIND nor IMM8 (R72). -/
def withNoOperand (w : Word) (i : Instr) : Except Illegal Instr :=
  if kindOf w ≠ 0 then .error .kindNotZero
  else if immOf w ≠ 0 then .error .immNotZero
  else .ok i

/-- A command that uses IMM8, whose KIND must be 0 (R72). -/
def withImm (w : Word) (mk : Byte → Instr) : Except Illegal Instr :=
  if kindOf w ≠ 0 then .error .kindNotZero else .ok (mk (immOf w))

/-- A command that uses KIND, whose IMM8 must be 0 (R72). -/
def withKind (w : Word) (mk : BitVec 4 → Instr) : Except Illegal Instr :=
  if immOf w ≠ 0 then .error .immNotZero else .ok (mk (kindOf w))

/-- The decoder: the opcode map of R72, everything else illegal (R73). -/
def decode (w : Word) : Except Illegal Instr :=
  if rsvOf w ≠ 0 then .error .reservedBitsSet
  else match (opOf w).toNat with
    | 0 => withNoOperand w .nop
    | 1 => withNoOperand w .crcInit
    | 2 => withImm w .crcByte
    | 3 => withNoOperand w .rxClear
    | 4 => withImm w .rxPush
    | 5 => withKind w .encode
    | 6 => withKind w .decode
    | 7 => withImm w .field
    | _ => .error .reservedOp

/-- The encoder of R70: `w = (OP << 12) | (KIND << 8) | IMM8`. -/
def commandWord (op kind : BitVec 4) (imm : Byte) : Word :=
  (op.setWidth 32 <<< 12) ||| (kind.setWidth 32 <<< 8) ||| imm.setWidth 32

/-- The word of a command (R70, R72). -/
def encode : Instr → Word
  | .nop => commandWord 0 0 0
  | .crcInit => commandWord 1 0 0
  | .crcByte b => commandWord 2 0 b
  | .rxClear => commandWord 3 0 0
  | .rxPush b => commandWord 4 0 b
  | .encode k => commandWord 5 k 0
  | .decode k => commandWord 6 k 0
  | .field s => commandWord 7 0 s

/-- One row of the match and mask table of R72. -/
structure OpcodeRow where
  mnemonic : String
  pattern : Word
  mask : Word
  deriving DecidableEq, Repr

/-- The match and mask table of R72, row by row as the spec prints it; the decoder does not use it. -/
def opcodeRows : List OpcodeRow :=
  [ ⟨"NOP", 0x00000000, 0xFFFFFFFF⟩
  , ⟨"CRC_INIT", 0x00001000, 0xFFFFFFFF⟩
  , ⟨"CRC_BYTE", 0x00002000, 0xFFFFFF00⟩
  , ⟨"RX_CLEAR", 0x00003000, 0xFFFFFFFF⟩
  , ⟨"RX_PUSH", 0x00004000, 0xFFFFFF00⟩
  , ⟨"ENCODE", 0x00005000, 0xFFFFF0FF⟩
  , ⟨"DECODE", 0x00006000, 0xFFFFF0FF⟩
  , ⟨"FIELD", 0x00007000, 0xFFFFFF00⟩ ]

/-- A word matches a row (R72). -/
def OpcodeRow.matchesWord (r : OpcodeRow) (w : Word) : Bool := w &&& r.mask == r.pattern

/-- The mnemonic of a command, as R72 spells it. -/
def mnemonicOf : Instr → String
  | .nop => "NOP"
  | .crcInit => "CRC_INIT"
  | .crcByte _ => "CRC_BYTE"
  | .rxClear => "RX_CLEAR"
  | .rxPush _ => "RX_PUSH"
  | .encode _ => "ENCODE"
  | .decode _ => "DECODE"
  | .field _ => "FIELD"

/-- A command in the assembler syntax of R87: its mnemonic with its operand, the operand in decimal. -/
def assembly : Instr → String
  | .crcByte b => "CRC_BYTE " ++ toString b.toNat
  | .rxPush b => "RX_PUSH " ++ toString b.toNat
  | .encode k => "ENCODE " ++ toString k.toNat
  | .decode k => "DECODE " ++ toString k.toNat
  | .field s => "FIELD " ++ toString s.toNat
  | .nop => "NOP"
  | .crcInit => "CRC_INIT"
  | .rxClear => "RX_CLEAR"

/-- The host's question: what the decoder reads from an instruction of `nbits` bits whose bits are `w`.
A command is one 32-bit word (R70), so the bits above `nbits` are 0. -/
def decodeTableWord (nbits w : Nat) : Option Instr :=
  (decode (BitVec.ofNat 32 (w % 2 ^ nbits))).toOption

end Sys2Proof
end

