-- ==== Sys2Proof/Config.lean ====
section
/-! DEFINITION. The parameters the source leaves OPEN (00_scope.md R6, 92_eei_decisions.md D3 to D6): they are
fixed for the life of an instance and no command changes them. The machine runs at `Config.params`, an opaque
constant without a body: a proof about the machine holds for every admissible value. The operations take the
parameters as arguments, so that the vectors of 95_test_vectors.md can be checked at its illustrative sets. -/

namespace Sys2Proof

/-- The five constants of the CRC function (R6, R100 to R102), with no constraint on them. -/
structure CrcVariant where
  poly : Byte
  init : Byte
  refin : Bool
  refout : Bool
  xorout : Byte
  deriving DecidableEq, Repr, Inhabited

/-- `CRC8_POLY` with the constraint of R6 that it is not 0. The default only shows that the type has a
value; the parameter itself is opaque. -/
structure GeneratorPoly where
  val : Byte := 1
  ne_zero : val ≠ 0 := by decide
  deriving Inhabited

/-- `BIT_RTC_BUSY` and `BIT_RTC_PWRDN` with the constraints of R6: bits in 3..7, different from each
other. The defaults only show that the type has a value; the parameter itself is opaque. -/
structure RtcBits where
  busy : Nat := 3
  pwrdn : Nat := 4
  busy_range : 3 ≤ busy ∧ busy ≤ 7 := by decide
  pwrdn_range : 3 ≤ pwrdn ∧ pwrdn ≤ 7 := by decide
  distinct : busy ≠ pwrdn := by decide
  deriving Inhabited

/-- All the parameters of R6, each of the type and under the constraint the rule gives it. -/
structure Params where
  /-- `CRC8_POLY`. -/
  poly : GeneratorPoly
  /-- `CRC8_INIT`. -/
  init : Byte
  /-- `CRC8_REFIN`. -/
  refin : Bool
  /-- `CRC8_REFOUT`. -/
  refout : Bool
  /-- `CRC8_XOROUT`. -/
  xorout : Byte
  /-- `REQ_TEMPLATE[k]`, a byte string of length `REQ_LEN[k]`. -/
  reqTemplate : (k : RequestKind) → Vector Byte k.len
  /-- `REQ_CRC[k]`. -/
  reqCrc : RequestKind → Bool
  /-- `BIT_RTC_BUSY` and `BIT_RTC_PWRDN`. -/
  rtcBits : RtcBits
  /-- `BLOCK_BASE`, the host address of offset 0x00. -/
  blockBase : Nat
  deriving Inhabited

/-- The CRC constants of a parameter set. -/
def Params.crc (p : Params) : CrcVariant :=
  { poly := p.poly.val, init := p.init, refin := p.refin, refout := p.refout, xorout := p.xorout }

/-- The parameters of the block this model runs: OPEN in the source (D3 to D6), so opaque here. -/
opaque Config.params : Params

end Sys2Proof
end

