-- ==== Sys2Proof/Machine/State.lean ====
section
/-! DEFINITION. The state of the block, exactly the elements of 10_state.md R20, with the host's side of
the port (the accesses still to come and the answers given) beside them; the faults and refusals of the model;
the state after reset (R33). -/

namespace Sys2Proof.Machine

/-- A 37-byte buffer (R8, R23, R25). -/
abbrev Buffer := Vector Byte 37

/-- What the host does to the block (R53, R169): a bus read or write of `n` bytes at an offset of the
window, or the reset input asserted between two accesses (R200). -/
inductive HostEvent where
  | read (off : Offset) (n : Nat)
  | write (off : Offset) (n : Nat) (v : Word)
  | reset
  deriving DecidableEq, Repr

/-- What the port answers to one access: the data of a 1-byte or 4-byte read (R54), the completion of an
admitted write (R55, R59), or the error response of an access that is not admitted (R57). -/
inductive Response where
  | byte (v : Byte)
  | word (v : Word)
  | written
  | busError (off : Offset)
  deriving DecidableEq, Repr

/-- The state. The first twelve fields are the elements of R20; `pending` and `responses` are the model's own
and stand for the host's side of the port (log entries 2 and 3). -/
structure State where
  /-- The CRC shift register (R22). -/
  acc : Byte
  /-- The request-frame buffer (R23). -/
  txbuf : Buffer
  /-- The length of the request frame (R24). -/
  txlen : BitVec 6
  /-- The reply-frame buffer (R25). -/
  rxbuf : Buffer
  /-- The count of reply bytes accepted (R26). -/
  rxlen : BitVec 6
  /-- `STATUS.ERR` (R28, R180). -/
  err : BitVec 4
  /-- `STATUS.REC_VALID` (R28). -/
  recValid : Bool
  /-- `STATUS.RXOVF` (R28). -/
  rxovf : Bool
  /-- `STATUS.REC_KIND` (R28). -/
  recKind : BitVec 4
  /-- `FIELD` (R31). -/
  field : Word
  /-- `CHK.CALC` (R32). -/
  chkCalc : Byte
  /-- `CHK.RECV` (R32). -/
  chkRecv : Byte
  /-- The host's accesses that the port has not served yet, in the order the host issues them (R59). -/
  pending : List HostEvent
  /-- What the port has answered, oldest first. -/
  responses : List Response
  deriving DecidableEq, Repr

/-- The faults of the model. -/
inductive Fault where
  /-- `BusError(off)` (R57, R182): raised by the port operations `busRead` and `busWrite` for an access that
  R53 does not admit. It is a fault of the ACCESS: `serveEvent` gives it to the host as the error response, no
  state of the block changes, and the machine goes on, as R57 says. Safe. -/
  | busError (off : Offset)
  deriving DecidableEq, Repr

/-- The refusals of the model. -/
inductive Refusal where
  /-- An instruction without a meaning, by its mnemonic: raised only by an arm of `exec` that is rejected by
  name. No arm is, so nothing raises it. Safe. -/
  | notModelled (mnemonic : String)
  deriving DecidableEq, Repr

/-- The state after reset under given CRC constants (R33): `acc` is `CRC8_INIT`, every other element is 0. The
host has issued nothing and been answered nothing (log entries 2 and 3). -/
def State.resetWith (v : CrcVariant) : State :=
  { acc := v.init
    txbuf := Vector.replicate 37 0
    txlen := 0
    rxbuf := Vector.replicate 37 0
    rxlen := 0
    err := 0
    recValid := false
    rxovf := false
    recKind := 0
    field := 0
    chkCalc := 0
    chkRecv := 0
    pending := []
    responses := [] }

/-- The machine right after reset (R33, R200). -/
def State.reset : State := State.resetWith Config.params.crc

end Sys2Proof.Machine
end

