-- ==== Sys2Proof/Machine/Flags.lean ====
section
/-! DEFINITION. The error codes (60_exceptions.md R180), the STATUS word (10_state.md R28) and the two ways a
command ends: `done` and `raise CmdError(code)` (00_scope.md R11). -/

namespace Sys2Proof.Machine

/-- The error codes of R180. -/
inductive ErrCode where
  | none
  | lengthMismatch
  | checksumMismatch
  | badKind
  | rxOverflow
  | noRecord
  | badField
  | illegalCmd
  deriving DecidableEq, Repr

/-- The number of an error code in `STATUS.ERR` (R28, R180). -/
def ErrCode.code : ErrCode → BitVec 4
  | .none => 0
  | .lengthMismatch => 1
  | .checksumMismatch => 2
  | .badKind => 3
  | .rxOverflow => 4
  | .noRecord => 5
  | .badField => 6
  | .illegalCmd => 7

/-- `raise CmdError(code)`: `STATUS.ERR <- code` and no trap (R11, R185). -/
def raiseErr (c : ErrCode) (s : State) : State := { s with err := c.code }

/-- `done`: `STATUS.ERR <- NONE` (R11). -/
def done (s : State) : State := raiseErr .none s

/-- `REC_VALID <- 0; REC_KIND <- 0`: the record is discarded (R28; RX_CLEAR, RX_PUSH, failed DECODE). -/
def dropRecord (s : State) : State := { s with recValid := false, recKind := 0 }

/-- The STATUS register (R28): `ERR` in 3:0, `REC_VALID` in 4, `RXOVF` in 5, 7:6 zero, `REC_KIND` in 11:8,
31:12 zero. -/
def statusWord (s : State) : Word :=
  s.err.setWidth 32
    ||| ((BitVec.ofBool s.recValid).setWidth 32 <<< 4)
    ||| ((BitVec.ofBool s.rxovf).setWidth 32 <<< 5)
    ||| (s.recKind.setWidth 32 <<< 8)

end Sys2Proof.Machine
end

