-- ==== Sys2Proof/Machine/Ops.lean ====
section
/-! DEFINITION. The shared operations: byte order (00_scope.md R10, 20_memory.md R50, R52), the buffers
(10_state.md R23, R25), the CRC function (40_checksum.md R100 to R102), the register window (R35), the reset input
(70_reset_and_hazards.md R200) and the effect of an illegal word (41_frame_codec.md R120). -/

namespace Sys2Proof.Machine

/-! ## Bytes -/

/-- Byte `t` of a word: bits `8t+7 : 8t` (R52). -/
def byteOf (w : Word) (t : Nat) : Byte := w.extractLsb' (8 * t) 8

/-- The word whose bytes are `b0` to `b3`, least significant first (R52). -/
def wordOfBytes (b0 b1 b2 b3 : Byte) : Word :=
  BitVec.ofNat 32 (b0.toNat + b1.toNat * 2 ^ 8 + b2.toNat * 2 ^ 16 + b3.toNat * 2 ^ 24)

/-! ## Buffers -/

/-- Byte `i` of a buffer. An index past 36 is a reserved offset of the window and reads 0 (R35, R52). -/
def bufByte (B : Buffer) (i : Nat) : Byte := B[i]?.getD 0

/-- The buffer that starts with the bytes of `l` and is zero after them. -/
def bufOf (l : List Byte) : Buffer := Vector.ofFn fun i => l.getD i.val 0

/-- `B[i] <- b`. -/
def bufSet (B : Buffer) (i : Nat) (b : Byte) : Buffer := B.setIfInBounds i b

/-- `B[0..n-1]` (R10). -/
def bufPrefix (B : Buffer) (n : Nat) : List Byte := B.toList.take n

/-- The sum of `B[o+t] * 2^(8t)` over `t` in `0..n-1` (R10). -/
def leSum (B : Buffer) (o : Nat) : Nat → Nat
  | 0 => 0
  | n + 1 => leSum B o n + (bufByte B (o + n)).toNat * 2 ^ (8 * n)

/-- `LE(B, o, n)`, unsigned and zero-extended to 32 bits (R10, R50). -/
def leField (B : Buffer) (o n : Nat) : Word := BitVec.ofNat 32 (leSum B o n)

/-! ## The CRC function -/

/-- `rev8(x)[i] = x[7-i]` (R101). -/
def rev8 (x : Byte) : Byte := x.reverse

/-- One of the eight shifts of `crc_update` (R101). -/
def crcShift (v : CrcVariant) (d : Byte) : Byte :=
  if d.getLsbD 7 then (d <<< 1) ^^^ v.poly else d <<< 1

/-- `crc_update(c, b)` (R101). -/
def crcUpdate (v : CrcVariant) (c b : Byte) : Byte :=
  (crcShift v)^[8] (c ^^^ (if v.refin then rev8 b else b))

/-- `fold(c, B)`: `crc_update` along `B` from `c` (R100, R103 item 1). -/
def crcFold (v : CrcVariant) (c : Byte) (B : List Byte) : Byte := B.foldl (crcUpdate v) c

/-- `crc_out(c)` (R102). -/
def crcOut (v : CrcVariant) (c : Byte) : Byte :=
  (if v.refout then rev8 c else c) ^^^ v.xorout

/-- `crc8(B)` (R100). -/
def crc8 (v : CrcVariant) (B : List Byte) : Byte := crcOut v (crcFold v v.init B)

/-! ## The register window -/

/-- The named registers of the window (R35). -/
inductive Reg where
  | cmd
  | status
  | crc
  | txlen
  | rxlen
  | field
  | chk
  deriving DecidableEq, Repr

/-- The offset of a register (R35). -/
def regOffset : Reg → Offset
  | .cmd => 0x00
  | .status => 0x04
  | .crc => 0x08
  | .txlen => 0x0C
  | .rxlen => 0x10
  | .field => 0x14
  | .chk => 0x18

/-- The content of a register as the host reads it: `CMD` reads 0 (R27), the unnamed bits read 0 (R28 to R32, R35). -/
def regWord (v : CrcVariant) (s : State) : Reg → Word
  | .cmd => 0
  | .status => statusWord s
  | .crc => (crcOut v s.acc).setWidth 32
  | .txlen => s.txlen.setWidth 32
  | .rxlen => s.rxlen.setWidth 32
  | .field => s.field
  | .chk => s.chkCalc.setWidth 32 ||| (s.chkRecv.setWidth 32 <<< 8)

/-- The register whose word starts at offset `4j`, if one does (R35). -/
def regAt : Nat → Option Reg
  | 0 => some .cmd
  | 1 => some .status
  | 2 => some .crc
  | 3 => some .txlen
  | 4 => some .rxlen
  | 5 => some .field
  | 6 => some .chk
  | _ => none

/-- The byte at an offset below 0x40: a byte of a register, or 0 where the offset is reserved (R35). -/
def regByte (v : CrcVariant) (s : State) (a : Nat) : Byte :=
  match regAt (a / 4) with
  | some r => byteOf (regWord v s r) (a % 4)
  | none => 0

/-- `MemRead(off, 1)`: the byte the window shows at an offset (R35, R54). -/
def windowByte (v : CrcVariant) (s : State) (off : Offset) : Byte :=
  if off.toNat < 0x40 then regByte v s off.toNat
  else if off.toNat < 0x80 then bufByte s.txbuf (off.toNat - 0x40)
  else bufByte s.rxbuf (off.toNat - 0x80)

/-- `MemRead(off, 4)`: four bytes of the window, little-endian (R52). -/
def windowWord (v : CrcVariant) (s : State) (off : Offset) : Word :=
  wordOfBytes (windowByte v s off) (windowByte v s (off + 1)) (windowByte v s (off + 2)) (windowByte v s (off + 3))

/-- The host address of an offset (R34). -/
def hostAddress (p : Params) (off : Offset) : Nat := p.blockBase + off.toNat

/-- The offset a host address reaches, if it lies in the window (R34). -/
def offsetOfAddress (p : Params) (a : Nat) : Option Offset :=
  if p.blockBase ≤ a ∧ a < p.blockBase + 256 then some (BitVec.ofNat 8 (a - p.blockBase)) else none

/-! ## Reset, illegal words, the port's answers -/

/-- The reset input (R200): every element of R20 takes its reset value (R33). The accesses the host has still to
issue and the answers it has had are the host's and stay (log entry 8). -/
def assertReset (v : CrcVariant) (s : State) : State :=
  { State.resetWith v with pending := s.pending, responses := s.responses }

/-- An illegal word: `STATUS.ERR <- ILLEGAL_CMD`, nothing else changes (R73, R120). -/
def illegalCommand (s : State) : State := raiseErr .illegalCmd s

/-- The port answers the host. -/
def respond (r : Response) (s : State) : State := { s with responses := s.responses ++ [r] }

/-- Go on from a next state; a fault or a refusal stays what it is. -/
def andThen {σ τ φ ρ : Type} (o : Host.Outcome σ φ ρ) (f : σ → Host.Outcome τ φ ρ) : Host.Outcome τ φ ρ :=
  match o with
  | .next s => f s
  | .fault r => .fault r
  | .refused r => .refused r

end Sys2Proof.Machine
end

