-- ==== Sys2Proof/Machine/Operands.lean ====
section
/-! DEFINITION. The operand forms of the commands: the KIND field (30_encoding.md R74, R75) and the field
selectors (R83 to R86). -/

namespace Sys2Proof.Machine

/-! ## Kinds -/

/-- The number of a request kind in KIND (R74). -/
def requestCode : RequestKind → BitVec 4
  | .emergencyReset => 0
  | .reset => 1
  | .powerCycle => 2
  | .getVersion => 3
  | .getHousekeeping => 4

/-- The number of a reply kind in KIND (R74). -/
def replyCode : ReplyKind → BitVec 4
  | .getVersion => 3
  | .getHousekeeping => 4
  | .generic => 5

/-- The request kind KIND names, if `ENCODE` is valid for it (R75: kinds 0 to 4). -/
def requestOfCode (k : BitVec 4) : Option RequestKind :=
  match k.toNat with
  | 0 => some .emergencyReset
  | 1 => some .reset
  | 2 => some .powerCycle
  | 3 => some .getVersion
  | 4 => some .getHousekeeping
  | _ => none

/-- The reply kind KIND names, if `DECODE` is valid for it (R75: kinds 3, 4 and 5). -/
def replyOfCode (k : BitVec 4) : Option ReplyKind :=
  match k.toNat with
  | 3 => some .getVersion
  | 4 => some .getHousekeeping
  | 5 => some .generic
  | _ => none

/-! ## Field selectors -/

/-- An entry of the selector tables (R83): `bytes o n` is `LE(B, o, n)`, `bit p` is bit `p` of `B[2]`. -/
inductive Entry where
  | bytes (o n : Nat)
  | bit (p : Nat)
  deriving DecidableEq, Repr

/-- The selectors of `GET_VERSION` (R84). -/
def versionEntry (sel : Nat) : Option Entry :=
  match sel with
  | 0 => some (.bytes 1 1)
  | 1 => some (.bytes 2 1)
  | 2 => some (.bytes 3 1)
  | 3 => some (.bytes 4 1)
  | 4 => some (.bytes 5 1)
  | 5 => some (.bytes 6 4)
  | 6 => some (.bytes 10 2)
  | 7 => some (.bytes 31 1)
  | 8 => some (.bytes 32 1)
  | 9 => some (.bytes 33 1)
  | _ => if 16 ≤ sel ∧ sel ≤ 34 then some (.bytes (12 + (sel - 16)) 1) else none

/-- The selectors of `GET_HOUSEKEEPING` (R85). -/
def housekeepingEntry (bits : RtcBits) (sel : Nat) : Option Entry :=
  match sel with
  | 0 => some (.bytes 1 1)
  | 1 => some (.bytes 2 1)
  | 2 => some (.bytes 3 4)
  | 3 => some (.bytes 7 4)
  | 4 => some (.bytes 11 4)
  | 5 => some (.bytes 35 1)
  | 6 => some (.bytes 36 1)
  | 24 => some (.bit 0)
  | 25 => some (.bit 1)
  | 26 => some (.bit 2)
  | 27 => some (.bit bits.busy)
  | 28 => some (.bit bits.pwrdn)
  | _ => if 8 ≤ sel ∧ sel ≤ 17 then some (.bytes (15 + 2 * (sel - 8)) 2) else none

/-- The selectors of `GENERIC` (R86). -/
def genericEntry (sel : Nat) : Option Entry :=
  match sel with
  | 0 => some (.bytes 1 1)
  | 1 => some (.bytes 2 1)
  | _ => none

/-- The entry of a selector of a record kind; `none` where the selector names no field (R83). -/
def fieldEntry (bits : RtcBits) (k : ReplyKind) (sel : Byte) : Option Entry :=
  match k with
  | .getVersion => versionEntry sel.toNat
  | .getHousekeeping => housekeepingEntry bits sel.toNat
  | .generic => genericEntry sel.toNat

/-- The value of an entry in the bytes `B` (R83). -/
def entryValue (B : Buffer) : Entry → Word
  | .bytes o n => leField B o n
  | .bit p => (BitVec.ofBool ((bufByte B 2).getLsbD p)).setWidth 32

/-- `field_value(kind, sel, B)` for the KIND that `REC_KIND` holds (R83); `none` where the selector names no field. -/
def fieldValue (bits : RtcBits) (kind : BitVec 4) (sel : Byte) (B : Buffer) : Option Word :=
  match replyOfCode kind with
  | none => none
  | some k => (fieldEntry bits k sel).map (entryValue B)

end Sys2Proof.Machine
end

