-- ==== Sys2Proof/Machine/Checksum.lean ====
section
/-! DEFINITION. The commands of the Checksum Unit: CRC_INIT and CRC_BYTE (40_checksum.md R104, R105). -/

namespace Sys2Proof.Machine

/-- `CRC_INIT` under given CRC constants (R104). -/
def crcInit (v : CrcVariant) (s : State) : State :=
  done { s with acc := v.init }

/-- `CRC_BYTE b` under given CRC constants (R105). -/
def crcByte (v : CrcVariant) (b : Byte) (s : State) : State :=
  done { s with acc := crcUpdate v s.acc b }

/-- The meaning of `CRC_INIT` (R104). -/
def execCrcInit (s : State) : Host.Outcome State Fault Refusal :=
  .next (crcInit Config.params.crc s)

/-- The meaning of `CRC_BYTE b` (R105). -/
def execCrcByte (b : Byte) (s : State) : Host.Outcome State Fault Refusal :=
  .next (crcByte Config.params.crc b s)

end Sys2Proof.Machine
end

