-- ==== Sys2Proof/Machine/Codec.lean ====
section
/-! DEFINITION. The commands of the Frame Codec: NOP, RX_CLEAR, RX_PUSH, ENCODE, DECODE, FIELD
(41_frame_codec.md R121 to R128). -/

namespace Sys2Proof.Machine

/-- `req_image(k)` (30_encoding.md R76, R122): the template, its last byte replaced by the checksum of the others
where `REQ_CRC[k]` holds. -/
def reqImage (p : Params) (k : RequestKind) : List Byte :=
  let F := (p.reqTemplate k).toList
  if p.reqCrc k then F.take (k.len - 1) ++ [crc8 p.crc (F.take (k.len - 1))] else F

/-- `check_reply(k, n, ovf, B)` (R123); its result OK is the code NONE. -/
def checkReply (v : CrcVariant) (kind : BitVec 4) (n : BitVec 6) (ovf : Bool) (B : Buffer) : ErrCode :=
  match replyOfCode kind with
  | none => .badKind
  | some k =>
    if ovf = true ∨ n.toNat ≠ k.len then .lengthMismatch
    else if crc8 v (bufPrefix B (k.len - 1)) ≠ bufByte B (k.len - 1) then .checksumMismatch
    else .none

/-- `RX_CLEAR` (R124). -/
def rxClear (s : State) : State :=
  done (dropRecord { s with rxbuf := Vector.replicate 37 0, rxlen := 0, rxovf := false })

/-- `RX_PUSH b` (R125). -/
def rxPush (b : Byte) (s : State) : State :=
  if s.rxlen.toNat < 37 then
    done (dropRecord { s with rxbuf := bufSet s.rxbuf s.rxlen.toNat b, rxlen := s.rxlen + 1 })
  else
    raiseErr .rxOverflow (dropRecord { s with rxovf := true })

/-- `ENCODE k` under given parameters (R126). -/
def encodeFrame (p : Params) (kind : BitVec 4) (s : State) : State :=
  match requestOfCode kind with
  | none => raiseErr .badKind s
  | some k => done { s with txbuf := bufOf (reqImage p k), txlen := BitVec.ofNat 6 k.len }

/-- `CHK.CALC` and `CHK.RECV` as `DECODE k` leaves them once the kind and the length have passed (R127). -/
def setChk (v : CrcVariant) (kind : BitVec 4) (s : State) : State :=
  match replyOfCode kind with
  | none => s
  | some k => { s with chkCalc := crc8 v (bufPrefix s.rxbuf (k.len - 1)), chkRecv := bufByte s.rxbuf (k.len - 1) }

/-- `DECODE k` under given CRC constants (R127). -/
def decodeReply (v : CrcVariant) (kind : BitVec 4) (s : State) : State :=
  match checkReply v kind s.rxlen s.rxovf s.rxbuf with
  | .none => done { setChk v kind s with recValid := true, recKind := kind }
  | .checksumMismatch => raiseErr .checksumMismatch (dropRecord (setChk v kind s))
  | r => raiseErr r (dropRecord s)

/-- `FIELD s` under given parameters (R128). -/
def selectField (bits : RtcBits) (sel : Byte) (s : State) : State :=
  if s.recValid = false then raiseErr .noRecord { s with field := 0 }
  else match fieldValue bits s.recKind sel s.rxbuf with
    | none => raiseErr .badField { s with field := 0 }
    | some x => done { s with field := x }

/-- The meaning of `NOP` (R121): no element changes, `STATUS.ERR` included. -/
def execNop (s : State) : Host.Outcome State Fault Refusal := .next s

/-- The meaning of `RX_CLEAR` (R124). -/
def execRxClear (s : State) : Host.Outcome State Fault Refusal := .next (rxClear s)

/-- The meaning of `RX_PUSH b` (R125). -/
def execRxPush (b : Byte) (s : State) : Host.Outcome State Fault Refusal := .next (rxPush b s)

/-- The meaning of `ENCODE k` (R126). -/
def execEncode (kind : BitVec 4) (s : State) : Host.Outcome State Fault Refusal :=
  .next (encodeFrame Config.params kind s)

/-- The meaning of `DECODE k` (R127). -/
def execDecode (kind : BitVec 4) (s : State) : Host.Outcome State Fault Refusal :=
  .next (decodeReply Config.params.crc kind s)

/-- The meaning of `FIELD s` (R128). -/
def execField (sel : Byte) (s : State) : Host.Outcome State Fault Refusal :=
  .next (selectField Config.params.rtcBits sel s)

end Sys2Proof.Machine
end

