-- ==== Sys2Proof/Machine/Dispatch.lean ====
section
/-! DEFINITION. One arm per command (41_frame_codec.md R120, the `case OP` of `execute`). -/

namespace Sys2Proof.Machine

def exec (i : Instr) (s : State) : Host.Outcome State Fault Refusal :=
  match i with
  | .nop => Sys2Proof.Machine.execNop s
  | .crcInit => Sys2Proof.Machine.execCrcInit s
  | .crcByte b => Sys2Proof.Machine.execCrcByte b s
  | .rxClear => Sys2Proof.Machine.execRxClear s
  | .rxPush b => Sys2Proof.Machine.execRxPush b s
  | .encode kind => Sys2Proof.Machine.execEncode kind s
  | .decode kind => Sys2Proof.Machine.execDecode kind s
  | .field sel => Sys2Proof.Machine.execField sel s

end Sys2Proof.Machine
end

