-- ==== Sys2Proof/Machine/Port.lean ====
section
/-! DEFINITION. The host port: the accesses the block admits and what each does (20_memory.md R53 to R57),
dispatch of a command word (41_frame_codec.md R120), and the serving of one host event. -/

namespace Sys2Proof.Machine

/-- `execute(w)` (R120): a legal word runs its command, an illegal word sets `ERR = ILLEGAL_CMD` only. -/
def runCommand (w : Word) (s : State) : Host.Outcome State Fault Refusal :=
  match decode w with
  | .ok i => exec i s
  | .error _ => .next (illegalCommand s)

/-- `MemRead(off, n)` (R53, R54): the data, or `BusError(off)` where the access is not admitted. The state is not
changed: a read has no side effect. -/
def busRead (v : CrcVariant) (off : Offset) (n : Nat) (s : State) : Except Fault Response :=
  if n = 1 then .ok (.byte (windowByte v s off))
  else if n = 4 ∧ off.toNat % 4 = 0 then .ok (.word (windowWord v s off))
  else .error (.busError off)

/-- `MemWrite(off, n, w)` (R53, R55): at offset 0 the command `w` runs, at any other aligned offset nothing
happens, and `BusError(off)` where the access is not admitted. -/
def busWrite (off : Offset) (n : Nat) (w : Word) (s : State) :
    Except Fault (Host.Outcome State Fault Refusal) :=
  if n = 4 ∧ off.toNat % 4 = 0 then
    if off = regOffset .cmd then .ok (runCommand w s) else .ok (.next s)
  else .error (.busError off)

/-- The error response of a refused access (R57). -/
def faultResponse : Fault → Response
  | .busError off => .busError off

/-- One host event: the block's state as the event leaves it, and the port's answer added to `responses`. A refused
access changes nothing of the block (R57, R182). -/
def serveEvent (e : HostEvent) (s : State) : Host.Outcome State Fault Refusal :=
  match e with
  | .reset => .next (assertReset Config.params.crc s)
  | .read off n =>
    match busRead Config.params.crc off n s with
    | .ok r => .next (respond r s)
    | .error f => .next (respond (faultResponse f) s)
  | .write off n w =>
    match busWrite off n w s with
    | .ok o => andThen o fun t => .next (respond .written t)
    | .error f => .next (respond (faultResponse f) s)

/-- One step of the machine: the oldest access of the host is served (R59). While the host issues none, the block
holds its state (R193; log entry 4). -/
def serveNext (s : State) : Host.Outcome State Fault Refusal :=
  match s.pending with
  | [] => .next s
  | e :: rest => serveEvent e { s with pending := rest }

/-- The host event that writes a command word to CMD (30_encoding.md R70, R87). -/
def commandEvent (w : Word) : HostEvent := .write (regOffset .cmd) 4 w

end Sys2Proof.Machine
end

