-- ==== Sys2Proof/Machine/Step.lean ====
section
/-! DEFINITION. The step of the machine, and how the host of this pipeline places one command word before it. -/

namespace Sys2Proof.Machine

/-- One step: one access of the host's stream is served whole (R12, R59). -/
def step (s : State) : Host.Outcome State Fault Refusal := serveNext s

/-- The state in which the next access of the host is the write of the word `w` to CMD. The block fetches nothing
(20_memory.md R62): a command takes effect at the write to CMD that carries it, so the write is put in front of
the host's stream (log entry 2). -/
def State.withFetchWord (s : State) (nbits w : Nat) : State :=
  { s with pending := commandEvent (BitVec.ofNat 32 (w % 2 ^ nbits)) :: s.pending }

end Sys2Proof.Machine
end

