-- ==== Sys2Proof/Machine/Frames.lean ====
section
/-! DEFINITION. The reply frames and the records they carry (30_encoding.md R77 to R82): from the values of a
record to the bytes on the wire, and from a selector to the value it names. The commands do not use these; they say
what a frame means, so that ENCODE, DECODE and FIELD can be held against it. -/

namespace Sys2Proof.Machine

/-- The first `n` bytes of a word, least significant first (R50). -/
def leBytes (n : Nat) (w : Word) : List Byte := (List.range n).map (byteOf w)

/-- A Version Record with its dummy byte (R80). -/
structure VersionRecord where
  dummy : Byte
  status : Byte
  subsystem : Byte
  major : Byte
  minor : Byte
  patch : Byte
  build : BitVec 32
  serial : BitVec 16
  description : Vector Byte 19
  clock : Byte
  buildKind : Byte
  deriving DecidableEq, Repr

/-- A Housekeeping Record with its dummy byte (R81). -/
structure HousekeepingRecord where
  dummy : Byte
  status : Byte
  enable : Byte
  supervisorUptime : BitVec 32
  hostUptime : BitVec 32
  hostResets : BitVec 32
  analog : Vector (BitVec 16) 10
  analogUpdate : Byte
  deriving DecidableEq, Repr

/-- A Generic Reply with its dummy byte (R79). -/
structure GenericRecord where
  dummy : Byte
  status : Byte
  deriving DecidableEq, Repr

/-- Bytes 0 to 32 of a version frame (R80). -/
def versionBody (r : VersionRecord) : List Byte :=
  [r.dummy, r.status, r.subsystem, r.major, r.minor, r.patch] ++ leBytes 4 r.build
    ++ leBytes 2 (r.serial.setWidth 32) ++ r.description.toList ++ [r.clock, r.buildKind]

/-- Bytes 0 to 35 of a housekeeping frame (R81). -/
def housekeepingBody (r : HousekeepingRecord) : List Byte :=
  [r.dummy, r.status, r.enable] ++ leBytes 4 r.supervisorUptime ++ leBytes 4 r.hostUptime
    ++ leBytes 4 r.hostResets ++ r.analog.toList.flatMap (fun a => leBytes 2 (a.setWidth 32)) ++ [r.analogUpdate]

/-- Bytes 0 and 1 of a generic reply (R79). -/
def genericBody (r : GenericRecord) : List Byte := [r.dummy, r.status]

/-- A reply frame: the bytes before the checksum, and the checksum over all of them (R77). -/
def sealFrame (v : CrcVariant) (body : List Byte) : List Byte := body ++ [crc8 v body]

/-- The value a selector of `GET_VERSION` names, from the record (R84). -/
def versionValue (v : CrcVariant) (r : VersionRecord) (sel : Nat) : Option Word :=
  match sel with
  | 0 => some (r.status.setWidth 32)
  | 1 => some (r.subsystem.setWidth 32)
  | 2 => some (r.major.setWidth 32)
  | 3 => some (r.minor.setWidth 32)
  | 4 => some (r.patch.setWidth 32)
  | 5 => some r.build
  | 6 => some (r.serial.setWidth 32)
  | 7 => some (r.clock.setWidth 32)
  | 8 => some (r.buildKind.setWidth 32)
  | 9 => some ((crc8 v (versionBody r)).setWidth 32)
  | _ => if 16 ≤ sel then r.description[sel - 16]?.map fun b => b.setWidth 32 else none

/-- The value a selector of `GET_HOUSEKEEPING` names, from the record (R82, R85). -/
def housekeepingValue (v : CrcVariant) (bits : RtcBits) (r : HousekeepingRecord) (sel : Nat) : Option Word :=
  match sel with
  | 0 => some (r.status.setWidth 32)
  | 1 => some (r.enable.setWidth 32)
  | 2 => some r.supervisorUptime
  | 3 => some r.hostUptime
  | 4 => some r.hostResets
  | 5 => some (r.analogUpdate.setWidth 32)
  | 6 => some ((crc8 v (housekeepingBody r)).setWidth 32)
  | 24 => some (if r.enable.getLsbD 0 then 1 else 0)
  | 25 => some (if r.enable.getLsbD 1 then 1 else 0)
  | 26 => some (if r.enable.getLsbD 2 then 1 else 0)
  | 27 => some (if r.enable.getLsbD bits.busy then 1 else 0)
  | 28 => some (if r.enable.getLsbD bits.pwrdn then 1 else 0)
  | _ => if 8 ≤ sel then r.analog[sel - 8]?.map fun a => a.setWidth 32 else none

/-- The value a selector of `GENERIC` names, from the record (R86). -/
def genericValue (v : CrcVariant) (r : GenericRecord) (sel : Nat) : Option Word :=
  match sel with
  | 0 => some (r.status.setWidth 32)
  | 1 => some ((crc8 v (genericBody r)).setWidth 32)
  | _ => none

end Sys2Proof.Machine
end

