-- ==== Sys2Proof/Machine/Illustrative.lean ====
section
/-! DEFINITION. The illustrative parameters and frames of 95_test_vectors.md sections 1, 2.2 and 3.6. They are not the
hardware's and the machine does not use them: only the examples in statements and the tests do. -/

namespace Sys2Proof.Machine

/-- Parameter sets A to D (95_test_vectors.md section 1.1). -/
inductive IllustrativeSet where
  | a
  | b
  | c
  | d
  deriving DecidableEq, Repr

/-- The template of section 1.2: byte 0 is `0x10 * (k + 1)`, every other byte 0. -/
def illustrativeTemplate (k : RequestKind) : Vector Byte k.len :=
  Vector.ofFn fun i => if i.val = 0 then 0x10 * ((requestCode k).setWidth 8 + 1) else 0

/-- `REQ_CRC` of section 1.2: true for kinds 1 and 2. -/
def illustrativeReqCrc : RequestKind → Bool
  | .reset => true
  | .powerCycle => true
  | .emergencyReset => false
  | .getVersion => false
  | .getHousekeeping => false

/-- The parameters of section 1 under given CRC constants; `BLOCK_BASE` is irrelevant there. -/
def illustrativeParams (poly : GeneratorPoly) (init : Byte) (refin refout : Bool) (xorout : Byte) : Params :=
  { poly := poly, init := init, refin := refin, refout := refout, xorout := xorout,
    reqTemplate := illustrativeTemplate, reqCrc := illustrativeReqCrc,
    rtcBits := { busy := 3, pwrdn := 4 }, blockBase := 0 }

/-- The table of section 1.1. -/
def illustrative : IllustrativeSet → Params
  | .a => illustrativeParams { val := 0x07 } 0x00 false false 0x00
  | .b => illustrativeParams { val := 0x31 } 0x00 true true 0x00
  | .c => illustrativeParams { val := 0x07 } 0x00 false false 0x55
  | .d => illustrativeParams { val := 0x1D } 0xFF false false 0xFF

/-- The record of the source's section 8 scenario (95_test_vectors.md section 2.2). -/
def scenarioRecord : HousekeepingRecord :=
  { dummy := 0x00, status := 0x00, enable := 0x05, supervisorUptime := 1000, hostUptime := 500, hostResets := 2,
    analog := Vector.ofFn fun i => BitVec.ofNat 16 i.val, analogUpdate := 1 }

/-- The frame `HK` of section 2.2 under set A, byte by byte as the section prints it. -/
def frameHK : List Byte :=
  [0x00, 0x00, 0x05, 0xE8, 0x03, 0x00, 0x00, 0xF4, 0x01, 0x00, 0x00, 0x02, 0x00, 0x00, 0x00, 0x00, 0x00, 0x01, 0x00,
   0x02, 0x00, 0x03, 0x00, 0x04, 0x00, 0x05, 0x00, 0x06, 0x00, 0x07, 0x00, 0x08, 0x00, 0x09, 0x00, 0x01, 0xA4]

/-- The frame `V` of section 3.6 under set A, byte by byte as the section prints it. -/
def frameV : List Byte :=
  [0x00, 0x00, 0x01, 0x01, 0x02, 0x03, 0xEF, 0xBE, 0xAD, 0xDE, 0x34, 0x12, 0x4B, 0x75, 0x62, 0x4F, 0x53, 0x2D, 0x53,
   0x55, 0x50, 0x20, 0x76, 0x31, 0x2E, 0x32, 0x2E, 0x33, 0x00, 0x00, 0x00, 0x0C, 0x01, 0xF3]

end Sys2Proof.Machine
end

