-- ==== Sys2Proof/Machine/Pseudo.lean ====
section
/-! DEFINITION. The pseudo-instructions (30_encoding.md R88) as lists of commands and of host events, and the running
of a list of commands one after the other (20_memory.md R59). -/

namespace Sys2Proof.Machine

/-- `CRC8 b0, ..., b(n-1)` (R88). -/
def crc8Commands (B : List Byte) : List Instr := .crcInit :: B.map .crcByte

/-- `RX_LOAD b0, ..., b(n-1)` (R88). -/
def rxLoadCommands (B : List Byte) : List Instr := .rxClear :: B.map .rxPush

/-- Commands as the writes to CMD that carry them (R87). -/
def commandEvents (is : List Instr) : List HostEvent := is.map fun i => commandEvent (encode i)

/-- `TX_READ n` (R88): n one-byte reads from offset 0x40. -/
def txReadEvents (n : Nat) : List HostEvent :=
  (List.range n).map fun i => .read (BitVec.ofNat 8 (0x40 + i)) 1

/-- `CMDW w` (R88): a raw word that need not be legal. -/
def cmdwEvent (w : Word) : HostEvent := commandEvent w

/-- Run commands one after the other: each is complete before the next (R59, R204). -/
def runCommands : List Instr → State → Host.Outcome State Fault Refusal
  | [], s => .next s
  | i :: is, s => andThen (exec i s) (runCommands is)

/-- The bytes `TX_READ n` returns (R88, R54). -/
def txRead (v : CrcVariant) (s : State) (n : Nat) : List Byte :=
  (List.range n).map fun i => windowByte v s (BitVec.ofNat 8 (0x40 + i))

end Sys2Proof.Machine
end

