-- ==== Sys2Proof/Machine/Transaction.lean ====
section
/-! DEFINITION. The host's transactions (43_host_operations.md R160 to R168): how the five operations of the source
use the block. The transport's outcome is a free argument (R160), and so is whether the remote supervisor's operation
resets the block (R167, 93_implementation_defined.md I13). These bind the host, not the block: `step` does not use
them. -/

namespace Sys2Proof.Machine

/-- One exchange with the transport (R160): a failure, or a reply of any bytes and any length. -/
inductive Exchange where
  | transportError
  | reply (bytes : List Byte)
  deriving DecidableEq, Repr

/-- The results of a transaction (R164). `hostFault` carries an error code that cannot arise in the sequences of R162
and R163 and shows a host programming error. -/
inductive TransactionOutcome where
  | success (fields : List Word)
  | transportError
  | lengthMismatch
  | checksumMismatch
  | hostFault (code : BitVec 4)
  deriving DecidableEq, Repr

/-- What a transaction leaves: the request handed to the transport, if one was, its outcome, and the block. -/
structure Transaction where
  request : Option (List Byte)
  outcome : TransactionOutcome
  block : State
  deriving DecidableEq, Repr

/-- The fire-and-forget operations (R162). -/
inductive FireAndForget where
  | emergencyReset
  | reset
  | powerCycle
  deriving DecidableEq, Repr

/-- The query operations (R163). -/
inductive Query where
  | getVersion
  | getHousekeeping
  deriving DecidableEq, Repr

/-- The request kind of a fire-and-forget operation (R74). -/
def fireRequest : FireAndForget → RequestKind
  | .emergencyReset => .emergencyReset
  | .reset => .reset
  | .powerCycle => .powerCycle

/-- The request kind of a query (R74). -/
def queryRequest : Query → RequestKind
  | .getVersion => .getVersion
  | .getHousekeeping => .getHousekeeping

/-- The reply kind of a query (R75). -/
def queryReply : Query → ReplyKind
  | .getVersion => .getVersion
  | .getHousekeeping => .getHousekeeping

/-- The host writes a command's word to CMD (R87). -/
def issue (i : Instr) (s : State) : Host.Outcome State Fault Refusal := runCommand (encode i) s

/-- The host writes several commands' words to CMD, in order (R59). -/
def issueAll : List Instr → State → Host.Outcome State Fault Refusal
  | [], s => .next s
  | i :: is, s => andThen (issue i s) (issueAll is)

/-- The host reads `STATUS[3:0]` (R28). -/
def readErr (v : CrcVariant) (s : State) : BitVec 4 :=
  (windowWord v s (regOffset .status)).extractLsb' 0 4

/-- `op_fire_and_forget(k)` (R162). The reply, if the transport gives one, is not looked at. `resets` says whether the
operation, carried out by the remote supervisor after the exchange, resets the block (R167, N9). -/
def opFireAndForget (p : Params) (k : FireAndForget) (x : Exchange) (resets : Bool) (s : State) :
    Host.Outcome Transaction Fault Refusal :=
  andThen (issue (.encode (requestCode (fireRequest k))) s) fun s1 =>
    if readErr p.crc s1 ≠ 0 then .next ⟨none, .hostFault (readErr p.crc s1), s1⟩
    else
      let T := txRead p.crc s1 (fireRequest k).len
      let s2 := if resets then assertReset p.crc s1 else s1
      match x with
      | .transportError => .next ⟨some T, .transportError, s2⟩
      | .reply _ => .next ⟨some T, .success [], s2⟩

/-- `for each selector s the caller needs: FIELD s; read FIELD` (R163): the values, or the first error code, which is a
host fault (R164). -/
def readFields (p : Params) : List Byte → State → Host.Outcome (Except (BitVec 4) (List Word) × State) Fault Refusal
  | [], s => .next (.ok [], s)
  | sel :: rest, s =>
    andThen (issue (.field sel) s) fun t =>
      if readErr p.crc t ≠ 0 then .next (.error (readErr p.crc t), t)
      else andThen (readFields p rest t) fun r =>
        .next (r.1.map (windowWord p.crc t (regOffset .field) :: ·), r.2)

/-- The reply of a query handed to the block and decoded (R161, R163): `RX_CLEAR`, every byte pushed, `DECODE k`, and the
outcome mapping of R164. -/
def takeReply (p : Params) (k : Query) (T bytes sels : List Byte) (s : State) :
    Host.Outcome Transaction Fault Refusal :=
  andThen (issueAll (rxLoadCommands bytes ++ [.decode (replyCode (queryReply k))]) s) fun s1 =>
    let e := readErr p.crc s1
    if e = ErrCode.lengthMismatch.code then .next ⟨some T, .lengthMismatch, s1⟩
    else if e = ErrCode.checksumMismatch.code then .next ⟨some T, .checksumMismatch, s1⟩
    else if e ≠ 0 then .next ⟨some T, .hostFault e, s1⟩
    else andThen (readFields p sels s1) fun r =>
      match r.1 with
      | .ok values => .next ⟨some T, .success values, r.2⟩
      | .error code => .next ⟨some T, .hostFault code, r.2⟩

/-- `op_query(k)` with the selectors `sels` the caller needs (R163). -/
def opQuery (p : Params) (k : Query) (x : Exchange) (sels : List Byte) (s : State) :
    Host.Outcome Transaction Fault Refusal :=
  andThen (issue (.encode (requestCode (queryRequest k))) s) fun s1 =>
    if readErr p.crc s1 ≠ 0 then .next ⟨none, .hostFault (readErr p.crc s1), s1⟩
    else
      let T := txRead p.crc s1 (queryRequest k).len
      match x with
      | .transportError => .next ⟨some T, .transportError, s1⟩
      | .reply bytes => takeReply p k T bytes sels s1

end Sys2Proof.Machine
end

