-- ==== Sys2Proof/Safety.lean ====
section
/-! DEFINITION. What the claims call a good state and a safe run: the invariants of 10_state.md R37, and a host whose
accesses are all admitted (20_memory.md R53). -/

namespace Sys2Proof

open Sys2Proof.Machine

/-- The invariants R37 gives for every reachable state, item by item. -/
structure BlockInv (v : CrcVariant) (s : State) : Prop where
  /-- Item 1. -/
  txlen_mem : s.txlen = 0 ∨ s.txlen = 3 ∨ s.txlen = 10 ∨ s.txlen = 34 ∨ s.txlen = 37
  txbuf_tail : ∀ i, s.txlen.toNat ≤ i → bufByte s.txbuf i = 0
  /-- Item 2. -/
  rxlen_le : s.rxlen.toNat ≤ 37
  rxbuf_tail : ∀ i, s.rxlen.toNat ≤ i → bufByte s.rxbuf i = 0
  /-- Item 3. -/
  ovf_full : s.rxovf = true → s.rxlen = 37
  /-- Item 4. -/
  no_record : s.recValid = false → s.recKind = 0
  /-- Item 5. -/
  record : s.recValid = true → ∃ k, s.recKind = replyCode k ∧ s.rxovf = false ∧ s.rxlen.toNat = k.len ∧
    crc8 v (bufPrefix s.rxbuf (k.len - 1)) = bufByte s.rxbuf (k.len - 1)
  /-- Item 6. -/
  err_le : s.err.toNat ≤ 7

/-- `TXBUF[0..TXLEN-1]` is a request frame, the one last encoded, or empty (R23, R24). -/
def TxHoldsRequest (p : Params) (s : State) : Prop :=
  (s.txlen = 0 ∧ s.txbuf = Vector.replicate 37 0) ∨
    ∃ k, s.txlen.toNat = k.len ∧ bufPrefix s.txbuf k.len = reqImage p k ∧
      ∀ i, k.len ≤ i → bufByte s.txbuf i = 0

/-- The access is one R53 admits; the reset input is always admitted (R169). -/
def admittedEvent : HostEvent → Bool
  | .read off n => admittedRead off n
  | .write off n _ => admittedWrite off n
  | .reset => true

/-- No access of the run so far was refused (R57). -/
def NoAccessRefused (s : State) : Prop := ∀ off, Response.busError off ∉ s.responses

/-- Two states agree on every element of R20; the host's side may differ. -/
def SameBlock (s t : State) : Prop :=
  { s with pending := t.pending, responses := t.responses } = t

end Sys2Proof
end

