-- ==== Sys2Proof/Certificates/Slice0/Obligations.lean ====
section
/-! DEFINITION. The statements for the provers. Each docstring names the rule or section of spec/ it formalises. The machine
runs at the opaque parameters `Config.params`, so every statement about `exec` and `step` holds for every admissible value of
the OPEN parameters of 00_scope.md R6. -/

namespace Sys2Proof.Stated

open Sys2Proof Sys2Proof.Machine

/-- The parameters of the machine. -/
abbrev P : Params := Config.params

/-- The CRC constants of the machine. -/
abbrev V : CrcVariant := Config.params.crc

/-- Running the word only sets `STATUS.ERR` to ILLEGAL_CMD (7), in every state. -/
def RunsAsIllegal (w : Word) : Prop := ∀ s : State, runCommand w s = .next { s with err := 7 }

/-- The fields of R70, read from a word. -/
abbrev OP (w : Word) : BitVec 4 := w.extractLsb' 12 4
abbrev KIND (w : Word) : BitVec 4 := w.extractLsb' 8 4
abbrev IMM8 (w : Word) : Byte := w.extractLsb' 0 8
abbrev RSV (w : Word) : BitVec 16 := w.extractLsb' 16 16

/-- The command R120 runs for a legal word with these fields. -/
def commandOf (op kind : BitVec 4) (imm : Byte) : Instr :=
  match op.toNat with
  | 0 => .nop
  | 1 => .crcInit
  | 2 => .crcByte imm
  | 3 => .rxClear
  | 4 => .rxPush imm
  | 5 => .encode kind
  | 6 => .decode kind
  | _ => .field imm

/-- `LE(B, o, n)` as R10 writes it. -/
def littleEndian (B : Buffer) (o n : Nat) : Nat := ∑ t ∈ Finset.range n, (bufByte B (o + t)).toNat * 2 ^ (8 * t)

/-- The rows of R84 as (selector, offset, size). -/
def versionRows : List (Nat × Nat × Nat) :=
  [(0, 1, 1), (1, 2, 1), (2, 3, 1), (3, 4, 1), (4, 5, 1), (5, 6, 4), (6, 10, 2), (7, 31, 1), (8, 32, 1), (9, 33, 1)]
    ++ (List.range 19).map fun j => (16 + j, 12 + j, 1)

/-- The rows of R85 with an (offset, size) entry, as (selector, offset, size). -/
def housekeepingRows : List (Nat × Nat × Nat) :=
  [(0, 1, 1), (1, 2, 1), (2, 3, 4), (3, 7, 4), (4, 11, 4), (5, 35, 1), (6, 36, 1)]
    ++ (List.range 10).map fun i => (8 + i, 15 + 2 * i, 2)

/-- The rows of R85 with a `bit(p)` entry, as (selector, bit). -/
def flagRows (bits : RtcBits) : List (Nat × Nat) :=
  [(24, 0), (25, 1), (26, 2), (27, bits.busy), (28, bits.pwrdn)]

/-- The polynomial over GF(2) whose coefficients are the bits of a byte. -/
noncomputable def polyOf (b : Byte) : Polynomial (ZMod 2) :=
  ∑ i ∈ Finset.range 8, if b.getLsbD i then Polynomial.X ^ i else 0

/-- Bytewise XOR of two strings (R103 item 2). -/
def xorBytes (A B : List Byte) : List Byte := List.zipWith (· ^^^ ·) A B

/-- `M` with bit `j` of byte `i` flipped. -/
def flipBit (M : List Byte) (i j : Nat) : List Byte := M.modify i (· ^^^ (1#8 <<< j))

/-- The command is one of the two that move the CRC accumulator (R22). -/
def IsCrcCommand (i : Instr) : Prop := i = .crcInit ∨ ∃ b, i = .crcByte b

/-- The bytes the `RX_PUSH` commands of a list push, in order. -/
def pushedBytes : List Instr → List Byte
  | [] => []
  | .rxPush b :: is => b :: pushedBytes is
  | _ :: is => pushedBytes is

/-- Two outcomes are next states that report the same code and the same record flags, and in which every `FIELD` command gives the
same value and the same code. -/
def SameReading (o o' : Host.Outcome State Fault Refusal) : Prop :=
  ∃ t t', o = .next t ∧ o' = .next t' ∧ t.err = t'.err ∧ t.recValid = t'.recValid ∧ t.recKind = t'.recKind ∧
    ∀ sel : Byte, ∃ u u', exec (.field sel) t = .next u ∧ exec (.field sel) t' = .next u' ∧ u.field = u'.field ∧ u.err = u'.err

/-- A record of kind `k` is valid without an error, and `FIELD` reads exactly the values `value` gives for its selectors. -/
def ReadsRecord (t : State) (k : BitVec 4) (value : Nat → Option Word) : Prop :=
  t.err = 0 ∧ t.recValid = true ∧ t.recKind = k ∧
    (∀ (sel : Byte) (x : Word), value sel.toNat = some x → exec (.field sel) t = .next { t with field := x, err := 0 }) ∧
    (∀ sel : Byte, value sel.toNat = none → exec (.field sel) t = .next { t with field := 0, err := 6 })

/-- The host event can change the block: the reset input or a command write (20_memory.md R54, R55). -/
def reachesTheBlock : HostEvent → Bool
  | .reset => true
  | .write off n _ => n == 4 && off == 0x00
  | .read _ _ => false

/-- The state after `RX_LOAD HK` under set A, from reset. -/
def loadedHK : State :=
  { State.resetWith (illustrative .a).crc with rxbuf := bufOf frameHK, rxlen := 37 }

/-- The state after `RX_LOAD HK; DECODE 4` under set A, from reset. -/
def decodedHK : State := decodeReply (illustrative .a).crc 4 loadedHK

/-- The state after `RX_LOAD HK; DECODE 4; FIELD sel` under set A, from reset. -/
def readHK (sel : Byte) : State := selectField (illustrative .a).rtcBits sel decodedHK

/-- The state after `RX_LOAD 0x00, 0x00, 0x00; DECODE GENERIC` under set A, from reset. -/
def decodedG : State :=
  decodeReply (illustrative .a).crc 5 (rxPush 0 (rxPush 0 (rxPush 0 (rxClear (State.resetWith (illustrative .a).crc)))))

end Sys2Proof.Stated

open Sys2Proof Sys2Proof.Machine Sys2Proof.Stated

/-! ## Encoding and dispatch -/

/-- Decoding the word of a command gives the command back, for every command with every operand (30_encoding.md
sections 1 and 2). -/
def Obligations.DecodingAnEncodedCommandGivesItBack : Prop :=
  ∀ i : Instr, decode (encode i) = .ok i

/-- A word the decoder accepts is the word of the command it reads: each legal word has one meaning and no bit of it is
dropped (30_encoding.md sections 1 and 2). -/
def Obligations.EncodingADecodedWordGivesItBack : Prop :=
  ∀ (w : Word) (i : Instr), decode w = .ok i → encode i = w

/-- The decoder, the formula `legal` of R120 and the match and mask table of R72 accept the same words, the row that matches
bears the command's mnemonic, and no word matches two rows. -/
def Obligations.DecoderAgreesWithTheOpcodeTable : Prop :=
  (∀ w : Word, (∃ i, decode w = .ok i) ↔ legalWord w = true) ∧
  (∀ w : Word, legalWord w = true ↔ ∃ r ∈ opcodeRows, r.matchesWord w = true) ∧
  (∀ (w : Word) (i : Instr), decode w = .ok i → ∀ r ∈ opcodeRows, (r.matchesWord w = true ↔ r.mnemonic = mnemonicOf i))

/-- Words written out from the spec's encodings decode to their commands, and neighbours of them are refused by name. -/
def Obligations.SpecWordsDecode : Prop :=
  decode 0x00000000 = .ok .nop ∧ decode 0x00001000 = .ok .crcInit ∧ decode 0x00002031 = .ok (.crcByte 0x31) ∧
  decode 0x00003000 = .ok .rxClear ∧ decode 0x000040E8 = .ok (.rxPush 0xE8) ∧ decode 0x00005400 = .ok (.encode 4) ∧
  decode 0x00006F00 = .ok (.decode 15) ∧ decode 0x0000701C = .ok (.field 28) ∧
  decode 0x00010000 = .error .reservedBitsSet ∧ decode 0x00008000 = .error .reservedOp ∧
  decode 0x00002100 = .error .kindNotZero ∧ decode 0x00005401 = .error .immNotZero

/-- R120: a 4-byte write at 0x00 runs the word; a legal word runs the command its OP names with its operands, any other word only
sets ILLEGAL_CMD, and every legal command other than NOP writes `STATUS.ERR` without regard to what it held. -/
def Obligations.ExecuteDispatchesOnTheWord : Prop :=
  (∀ (w : Word) (s : State), busWrite 0x00 4 w s = .ok (runCommand w s)) ∧
  (∀ w : Word, legalWord w = false → RunsAsIllegal w) ∧
  (∀ (w : Word) (s : State), legalWord w = true → runCommand w s = exec (commandOf (OP w) (KIND w) (IMM8 w)) s) ∧
  (∀ (w : Word) (s : State) (e : BitVec 4), legalWord w = true → OP w ≠ 0 →
    runCommand w { s with err := e } = runCommand w s)

/-- R73: what is illegal, that an illegal word only sets ILLEGAL_CMD, that NOP is the only word without effect, and that a kind
or a selector without a meaning is an execution error instead. -/
def Obligations.IllegalWordsOnlySetTheirCode : Prop :=
  (∀ w : Word, (∀ r ∈ opcodeRows, r.matchesWord w = false) → RunsAsIllegal w) ∧
  (∀ w : Word, RSV w ≠ 0 → RunsAsIllegal w) ∧
  (∀ w : Word, 8 ≤ (OP w).toNat → RunsAsIllegal w) ∧
  (∀ w : Word, KIND w ≠ 0 → OP w ≠ 5 → OP w ≠ 6 → RunsAsIllegal w) ∧
  (∀ w : Word, IMM8 w ≠ 0 → OP w ≠ 2 → OP w ≠ 4 → OP w ≠ 7 → RunsAsIllegal w) ∧
  (∀ w : Word, (∀ s : State, runCommand w s = .next s) ↔ w = 0) ∧
  (∀ (k : BitVec 4) (s : State), 5 ≤ k.toNat → runCommand (encode (.encode k)) s = .next { s with err := 3 }) ∧
  (∀ (k : BitVec 4) (s : State), k ≠ 3 → k ≠ 4 → k ≠ 5 →
    runCommand (encode (.decode k)) s = .next { s with recValid := false, recKind := 0, err := 3 }) ∧
  (∀ (sel : Byte) (s : State), s.recValid = true → fieldValue P.rtcBits s.recKind sel s.rxbuf = none →
    runCommand (encode (.field sel)) s = .next { s with field := 0, err := 6 })

/-- A step whose oldest access writes a command word to CMD runs exactly the decoded command, on the state without that access,
and then answers the host that the write is complete (20_memory.md section 2, 41_frame_codec.md section 1). The queue of accesses
and the answers are the model's: log entries 2 and 3. -/
def Obligations.StepRunsTheDecodedCommand : Prop :=
  ∀ (s : State) (rest : List HostEvent) (w : Word) (i : Instr),
    s.pending = .write 0x00 4 w :: rest → decode w = .ok i →
      step s = andThen (exec i { s with pending := rest }) fun t =>
        .next { t with responses := t.responses ++ [.written] }

/-! ## The CRC function -/

/-- `crc_update` is multiplication by x^8 modulo the generator polynomial `x^8 + CRC8_POLY(x)`, on the register XORed with the
(reflected) byte (40_checksum.md R101, 93_implementation_defined.md K2). -/
def Obligations.CrcUpdateIsTheRemainderModuloTheGenerator : Prop :=
  ∀ (v : CrcVariant) (c b : Byte),
    polyOf (crcUpdate v c b) =
      (polyOf (c ^^^ (if v.refin then b.reverse else b)) * Polynomial.X ^ 8) %ₘ (Polynomial.X ^ 8 + polyOf v.poly)

/-- R102 and R36: `crc_out` reverses the bits or not, XORs the constant, is the identity for the plain parameters, and is a
bijection on bytes. -/
def Obligations.CrcOutIsABijection : Prop :=
  (∀ (v : CrcVariant) (c : Byte) (i : Nat), i < 8 →
    (crcOut v c).getLsbD i = ((if v.refout then c.getLsbD (7 - i) else c.getLsbD i) ^^ v.xorout.getLsbD i)) ∧
  (∀ (v : CrcVariant) (c : Byte), v.refout = false → v.xorout = 0 → crcOut v c = c) ∧
  (∀ v : CrcVariant, Function.Bijective (crcOut v))

/-- R103 item 2: affinity of `crc8`. -/
def Obligations.CrcIsAffine : Prop :=
  ∀ (v : CrcVariant) (X Y Z : List Byte), X.length = Y.length → Y.length = Z.length →
    crc8 v (xorBytes (xorBytes X Y) Z) = crc8 v X ^^^ crc8 v Y ^^^ crc8 v Z

/-- R103 item 3: a nonzero polynomial detects every single-bit change of every string. -/
def Obligations.CrcDetectsEverySingleBitFlip : Prop :=
  ∀ (v : CrcVariant) (M : List Byte) (i j : Nat), v.poly ≠ 0 → i < M.length → j < 8 →
    crc8 v (flipBit M i j) ≠ crc8 v M

/-- R103 item 4: the zero polynomial detects nothing. -/
def Obligations.ZeroPolynomialDetectsNothing : Prop :=
  ∀ v : CrcVariant, v.poly = 0 →
    (∀ c b, crcUpdate v c b = 0) ∧ (∀ B : List Byte, B ≠ [] → crc8 v B = v.xorout)

/-- R103 item 5: the residue of a string followed by its checksum. -/
def Obligations.CrcResidueIsZero : Prop :=
  ∀ (v : CrcVariant) (B : List Byte), v.refin = false → v.refout = false → v.xorout = 0 →
    crcFold v v.init (B ++ [crc8 v B]) = 0

/-! ## The commands of the Checksum Unit -/

/-- R104. -/
def Obligations.CrcInitStartsTheAccumulator : Prop :=
  decode 0x00001000 = .ok .crcInit ∧
  (∀ w : Word, OP w = 1 → KIND w ≠ 0 ∨ IMM8 w ≠ 0 ∨ RSV w ≠ 0 → RunsAsIllegal w) ∧
  (∀ s : State, ∃ t, exec .crcInit s = .next t ∧ t = { s with acc := V.init, err := 0 } ∧
    windowWord V t 0x08 = (crc8 V []).setWidth 32 ∧ windowByte V t 0x08 = crcOut V V.init) ∧
  (∀ s : State, windowWord (illustrative .a).crc (crcInit (illustrative .a).crc s) 0x08 = 0)

/-- R105. -/
def Obligations.CrcByteFeedsTheAccumulator : Prop :=
  (∀ b : Byte, decode ((0x00002000 : Word) ||| b.setWidth 32) = .ok (.crcByte b)) ∧
  (∀ w : Word, OP w = 2 → KIND w ≠ 0 ∨ RSV w ≠ 0 → RunsAsIllegal w) ∧
  (∀ (b : Byte) (s : State), ∃ t, exec (.crcByte b) s = .next t ∧ t = { s with acc := crcUpdate V s.acc b, err := 0 }) ∧
  (∀ b : Byte, ∃ t, exec (.crcByte b) State.reset = .next t ∧ windowByte V t 0x08 = crc8 V [b]) ∧
  (crcUpdate (illustrative .a).crc 0xFF 0xFF = 0x00 ∧ crcUpdate (illustrative .a).crc 0x00 0x00 = 0x00) ∧
  (∀ s : State, let v := (illustrative .a).crc
    windowByte v (crcByte v 0x33 (crcByte v 0x32 (crcByte v 0x31 (crcInit v s)))) 0x08 = 0xC0 ∧
      crc8 v [0x31, 0x32, 0x33] = 0xC0)

/-- R106 and R30: the command sequence `CRC8 B` leaves `CRC = crc8(B)` in its low byte and zeros above it, `ERR = NONE`, and every
other element as it was. -/
def Obligations.AccumulatorAgreesWithThePureFunction : Prop :=
  (∀ (B : List Byte) (s : State), ∃ t, runCommands (crc8Commands B) s = .next t ∧
    t = { s with acc := t.acc, err := 0 } ∧ windowWord V t 0x08 = (crc8 V B).setWidth 32) ∧
  (∀ s : State, windowByte V s 0x08 = crcOut V s.acc ∧ (windowWord V s 0x08).extractLsb' 8 24 = 0)

/-- R210: between `CRC_INIT` and the read of `CRC` only `CRC_BYTE` moves the accumulator, so the host may run any commands other
than the CRC commands inside a CRC computation. -/
def Obligations.FrameCommandsDoNotDisturbTheCrc : Prop :=
  (∀ (A B : List Byte) (cmds : List Instr) (s : State), (∀ i ∈ cmds, ¬ IsCrcCommand i) →
    ∃ t, runCommands (crc8Commands A ++ cmds ++ B.map .crcByte) s = .next t ∧
      windowWord V t 0x08 = (crc8 V (A ++ B)).setWidth 32) ∧
  (∀ (w : Word) (s : State), (∀ i, decode w = .ok i → ¬ IsCrcCommand i) →
    ∃ t, runCommand w s = .next t ∧ t.acc = s.acc)

/-! ## The commands of the Frame Codec -/

/-- R121. -/
def Obligations.NopChangesNothing : Prop :=
  decode 0x00000000 = .ok .nop ∧ (∀ s : State, exec .nop s = .next s) ∧
  (∀ w : Word, OP w = 0 → w ≠ 0 → RunsAsIllegal w)

/-- R76 and R122: the request image has the fixed length, its bytes are the template's, and its last byte is the checksum of the
others where `REQ_CRC[k]` holds. -/
def Obligations.RequestImageIsTheTemplateWithItsChecksum : Prop :=
  ∀ (p : Params) (k : RequestKind),
    (reqImage p k).length = k.len ∧
    (∀ i, i < k.len - 1 → (reqImage p k)[i]? = (p.reqTemplate k)[i]?) ∧
    (p.reqCrc k = true → (reqImage p k)[k.len - 1]? = some (crc8 p.crc ((reqImage p k).take (k.len - 1)))) ∧
    (p.reqCrc k = false → (reqImage p k)[k.len - 1]? = (p.reqTemplate k)[k.len - 1]?)

/-- R123, in the order of its tests, for the three decodable kinds with their lengths. -/
def Obligations.CheckReplyTestsKindThenLengthThenChecksum : Prop :=
  ∀ (v : CrcVariant) (k : BitVec 4) (n : BitVec 6) (ovf : Bool) (B : Buffer),
    (k ≠ 3 → k ≠ 4 → k ≠ 5 → checkReply v k n ovf B = .badKind) ∧
    (∀ L : Nat, (k, L) ∈ [(3, 34), (4, 37), (5, 3)] →
      checkReply v k n ovf B =
        if ovf = true ∨ n.toNat ≠ L then .lengthMismatch
        else if crc8 v (B.toList.take (L - 1)) ≠ bufByte B (L - 1) then .checksumMismatch
        else .none)

/-- R124. -/
def Obligations.RxClearEmptiesTheReplyBuffer : Prop :=
  decode 0x00003000 = .ok .rxClear ∧
  (∀ w : Word, OP w = 3 → KIND w ≠ 0 ∨ IMM8 w ≠ 0 ∨ RSV w ≠ 0 → RunsAsIllegal w) ∧
  (∀ s : State, ∃ t, exec .rxClear s = .next t ∧
    t = { s with rxbuf := t.rxbuf, rxlen := 0, rxovf := false, recValid := false, recKind := 0, err := 0 } ∧
    (∀ i, bufByte t.rxbuf i = 0) ∧
    (∀ sel : Byte, exec (.field sel) t = .next { t with field := 0, err := 5 })) ∧
  (statusWord decodedG = 0x510 ∧ statusWord (rxClear decodedG) = 0 ∧ (rxClear decodedG).rxlen = 0)

/-- R125: a push into a buffer with room appends, a push into a full buffer only records the overflow; either way the record is
dropped. After an overflow every push fails and every `DECODE` fails, with LENGTH_MISMATCH where R123 does not find BAD_KIND first,
until `RX_CLEAR`. -/
def Obligations.RxPushAppendsOrOverflows : Prop :=
  (∀ b : Byte, decode ((0x00004000 : Word) ||| b.setWidth 32) = .ok (.rxPush b)) ∧
  (∀ w : Word, OP w = 4 → KIND w ≠ 0 ∨ RSV w ≠ 0 → RunsAsIllegal w) ∧
  (∀ (b : Byte) (s : State), s.rxlen.toNat < 37 → ∃ t, exec (.rxPush b) s = .next t ∧
    t = { s with rxbuf := t.rxbuf, rxlen := t.rxlen, recValid := false, recKind := 0, err := 0 } ∧
    t.rxlen.toNat = s.rxlen.toNat + 1 ∧
    (∀ i, bufByte t.rxbuf i = if i = s.rxlen.toNat then b else bufByte s.rxbuf i)) ∧
  (∀ (b : Byte) (s : State), s.rxlen = 37 →
    exec (.rxPush b) s = .next { s with rxovf := true, recValid := false, recKind := 0, err := 4 }) ∧
  (∀ (i : Instr) (s : State), s.rxlen = 37 → s.rxovf = true → i ≠ .rxClear →
    ∃ t, exec i s = .next t ∧ t.rxlen = 37 ∧ t.rxovf = true ∧ t.rxbuf = s.rxbuf ∧
      (∀ b, i = .rxPush b → t.err = 4) ∧
      (∀ k : ReplyKind, i = .decode (replyCode k) → t.err = 1) ∧
      (∀ k : BitVec 4, k ≠ 3 → k ≠ 4 → k ≠ 5 → i = .decode k → t.err = 3)) ∧
  (∀ s : State, ∃ t, runCommands (.rxClear :: List.replicate 38 (.rxPush 0)) s = .next t ∧ t.rxlen = 37 ∧ statusWord t = 0x24)

/-- R126. -/
def Obligations.EncodeBuildsTheRequestFrame : Prop :=
  (∀ k : BitVec 4, decode ((0x00005000 : Word) ||| (k.setWidth 32 <<< 8)) = .ok (.encode k)) ∧
  (∀ w : Word, OP w = 5 → IMM8 w ≠ 0 ∨ RSV w ≠ 0 → RunsAsIllegal w) ∧
  (∀ (k : RequestKind) (s : State), ∃ t, exec (.encode (requestCode k)) s = .next t ∧
    t = { s with txbuf := t.txbuf, txlen := t.txlen, err := 0 } ∧ t.txlen.toNat = k.len ∧
    bufPrefix t.txbuf k.len = reqImage P k ∧ (∀ i, k.len ≤ i → bufByte t.txbuf i = 0) ∧
    exec (.encode (requestCode k)) t = .next t) ∧
  (∀ (k : BitVec 4) (s : State), 5 ≤ k.toNat → exec (.encode k) s = .next { s with err := 3 }) ∧
  (∀ s : State, let t := encodeFrame (illustrative .a) 1 s
    t.txlen = 3 ∧ bufPrefix t.txbuf 3 = [0x20, 0x00, 0xAE] ∧ crc8 (illustrative .a).crc [0x20, 0x00] = 0xAE)

/-- R127: the effect of each of the four results of `check_reply`, that `DECODE` may be repeated, and the example. -/
def Obligations.DecodeValidatesTheReply : Prop :=
  (∀ k : BitVec 4, decode ((0x00006000 : Word) ||| (k.setWidth 32 <<< 8)) = .ok (.decode k)) ∧
  (∀ w : Word, OP w = 6 → IMM8 w ≠ 0 ∨ RSV w ≠ 0 → RunsAsIllegal w) ∧
  (∀ (k : BitVec 4) (s : State), k ≠ 3 → k ≠ 4 → k ≠ 5 →
    exec (.decode k) s = .next { s with recValid := false, recKind := 0, err := 3 }) ∧
  (∀ (K : ReplyKind) (s : State), s.rxovf = true ∨ s.rxlen.toNat ≠ K.len →
    exec (.decode (replyCode K)) s = .next { s with recValid := false, recKind := 0, err := 1 }) ∧
  (∀ (K : ReplyKind) (s : State), s.rxovf = false → s.rxlen.toNat = K.len →
    crc8 V (bufPrefix s.rxbuf (K.len - 1)) ≠ bufByte s.rxbuf (K.len - 1) →
    exec (.decode (replyCode K)) s =
      .next { s with chkCalc := crc8 V (bufPrefix s.rxbuf (K.len - 1)), chkRecv := bufByte s.rxbuf (K.len - 1),
                     recValid := false, recKind := 0, err := 2 }) ∧
  (∀ (K : ReplyKind) (s : State), s.rxovf = false → s.rxlen.toNat = K.len →
    crc8 V (bufPrefix s.rxbuf (K.len - 1)) = bufByte s.rxbuf (K.len - 1) →
    exec (.decode (replyCode K)) s =
      .next { s with chkCalc := crc8 V (bufPrefix s.rxbuf (K.len - 1)), chkRecv := bufByte s.rxbuf (K.len - 1),
                     recValid := true, recKind := replyCode K, err := 0 }) ∧
  (∀ (k : BitVec 4) (s : State), ∃ t, exec (.decode k) s = .next t ∧ exec (.decode k) t = .next t) ∧
  (statusWord decodedHK = 0x410 ∧ windowWord (illustrative .a).crc decodedHK 0x18 = 0xA4A4)

/-- R128: no record, no such field, or the value; and the examples. -/
def Obligations.FieldReadsTheValidatedRecord : Prop :=
  (∀ sel : Byte, decode ((0x00007000 : Word) ||| sel.setWidth 32) = .ok (.field sel)) ∧
  (∀ w : Word, OP w = 7 → KIND w ≠ 0 ∨ RSV w ≠ 0 → RunsAsIllegal w) ∧
  (∀ (sel : Byte) (s : State), s.recValid = false → exec (.field sel) s = .next { s with field := 0, err := 5 }) ∧
  (∀ (sel : Byte) (s : State), s.recValid = true → fieldValue P.rtcBits s.recKind sel s.rxbuf = none →
    exec (.field sel) s = .next { s with field := 0, err := 6 }) ∧
  (∀ (sel : Byte) (s : State) (x : Word), s.recValid = true → fieldValue P.rtcBits s.recKind sel s.rxbuf = some x →
    exec (.field sel) s = .next { s with field := x, err := 0 }) ∧
  ((readHK 2).field = 1000 ∧ (readHK 24).field = 1 ∧ (readHK 25).field = 0 ∧ (readHK 7).field = 0 ∧ (readHK 7).err = 6)

/-- R84. -/
def Obligations.VersionSelectorsReadTheirBytes : Prop :=
  ∀ s : State, s.recValid = true → s.recKind = 3 →
    (∀ row ∈ versionRows, ∀ sel : Byte, sel.toNat = row.1 → ∃ t, exec (.field sel) s = .next t ∧
      t = { s with field := t.field, err := 0 } ∧ t.field.toNat = littleEndian s.rxbuf row.2.1 row.2.2) ∧
    (∀ sel : Byte, (10 ≤ sel.toNat ∧ sel.toNat ≤ 15) ∨ 35 ≤ sel.toNat →
      exec (.field sel) s = .next { s with field := 0, err := 6 })

/-- R85. -/
def Obligations.HousekeepingSelectorsReadTheirBytes : Prop :=
  ∀ s : State, s.recValid = true → s.recKind = 4 →
    (∀ row ∈ housekeepingRows, ∀ sel : Byte, sel.toNat = row.1 → ∃ t, exec (.field sel) s = .next t ∧
      t = { s with field := t.field, err := 0 } ∧ t.field.toNat = littleEndian s.rxbuf row.2.1 row.2.2) ∧
    (∀ row ∈ flagRows P.rtcBits, ∀ sel : Byte, sel.toNat = row.1 →
      exec (.field sel) s = .next { s with field := if (bufByte s.rxbuf 2).getLsbD row.2 then 1 else 0, err := 0 }) ∧
    (∀ sel : Byte, sel.toNat = 7 ∨ (18 ≤ sel.toNat ∧ sel.toNat ≤ 23) ∨ 29 ≤ sel.toNat →
      exec (.field sel) s = .next { s with field := 0, err := 6 })

/-- R86. -/
def Obligations.GenericSelectorsReadTheirBytes : Prop :=
  ∀ s : State, s.recValid = true → s.recKind = 5 →
    exec (.field 0) s = .next { s with field := (bufByte s.rxbuf 1).setWidth 32, err := 0 } ∧
    exec (.field 1) s = .next { s with field := (bufByte s.rxbuf 2).setWidth 32, err := 0 } ∧
    (∀ sel : Byte, 2 ≤ sel.toNat → exec (.field sel) s = .next { s with field := 0, err := 6 })

/-! ## What the commands leave unchanged -/

/-- The commands that write no buffer leave every other element and every other byte of the window as it was: CRC_INIT and
CRC_BYTE (STATUS byte 0x04 and CRC byte 0x08), DECODE (STATUS 0x04 and 0x05, CHK 0x18 and 0x19), FIELD (STATUS byte 0x04 and FIELD
0x14 to 0x17). -/
def Obligations.RegisterCommandsLeaveTheRest : Prop :=
  (∀ (i : Instr) (s : State), IsCrcCommand i → ∃ t, exec i s = .next t ∧ t = { s with acc := t.acc, err := 0 } ∧
    ∀ off : Offset, off ≠ 0x04 → off ≠ 0x08 → windowByte V t off = windowByte V s off) ∧
  (∀ (k : BitVec 4) (s : State), ∃ t, exec (.decode k) s = .next t ∧
    t = { s with chkCalc := t.chkCalc, chkRecv := t.chkRecv, recValid := t.recValid, recKind := t.recKind, err := t.err } ∧
    ∀ off : Offset, off ≠ 0x04 → off ≠ 0x05 → off ≠ 0x18 → off ≠ 0x19 → windowByte V t off = windowByte V s off) ∧
  (∀ (sel : Byte) (s : State), ∃ t, exec (.field sel) s = .next t ∧ t = { s with field := t.field, err := t.err } ∧
    ∀ off : Offset, off ≠ 0x04 → off.toNat < 0x14 ∨ 0x17 < off.toNat → windowByte V t off = windowByte V s off)

/-- The commands that write a buffer leave every other element and every other byte of the window as it was: RX_PUSH stores at
offset `0x80 + RXLEN` when there is room and nowhere when there is none, RX_CLEAR in 0x80 to 0xA4, ENCODE of a kind with a request
in 0x40 to 0x64 and of any other kind nowhere. -/
def Obligations.BufferCommandsLeaveTheRest : Prop :=
  (∀ (b : Byte) (s : State), ∃ t, exec (.rxPush b) s = .next t ∧
    t = { s with rxbuf := t.rxbuf, rxlen := t.rxlen, rxovf := t.rxovf, recValid := false, recKind := 0, err := t.err } ∧
    ∀ off : Offset, off ≠ 0x04 → off ≠ 0x05 → off ≠ 0x10 → ¬ (s.rxlen.toNat < 37 ∧ off.toNat = 0x80 + s.rxlen.toNat) →
      windowByte V t off = windowByte V s off) ∧
  (∀ s : State, ∃ t, exec .rxClear s = .next t ∧
    t = { s with rxbuf := t.rxbuf, rxlen := 0, rxovf := false, recValid := false, recKind := 0, err := 0 } ∧
    ∀ off : Offset, off ≠ 0x04 → off ≠ 0x05 → off ≠ 0x10 → off.toNat < 0x80 ∨ 0xA4 < off.toNat →
      windowByte V t off = windowByte V s off) ∧
  (∀ (k : BitVec 4) (s : State), ∃ t, exec (.encode k) s = .next t ∧
    t = { s with txbuf := t.txbuf, txlen := t.txlen, err := t.err } ∧
    ∀ off : Offset, off ≠ 0x04 → (k.toNat < 5 → off ≠ 0x0C ∧ (off.toNat < 0x40 ∨ 0x64 < off.toNat)) →
      windowByte V t off = windowByte V s off)

/-- Over all commands: each element of the state is changed only by the commands its rule names (10_state.md R22 to R32), the host's
side of the port by none, and `RXOVF` is cleared only by `RX_CLEAR`. -/
def Obligations.OnlyTheNamedCommandsChangeAnElement : Prop :=
  ∀ (i : Instr) (s : State), ∃ t, exec i s = .next t ∧
    (t.acc ≠ s.acc → IsCrcCommand i) ∧
    (t.txbuf ≠ s.txbuf ∨ t.txlen ≠ s.txlen → ∃ k : RequestKind, i = .encode (requestCode k)) ∧
    (t.rxbuf ≠ s.rxbuf ∨ t.rxlen ≠ s.rxlen → i = .rxClear ∨ (s.rxlen.toNat < 37 ∧ ∃ b, i = .rxPush b)) ∧
    (t.recValid ≠ s.recValid ∨ t.recKind ≠ s.recKind → i = .rxClear ∨ (∃ b, i = .rxPush b) ∨ ∃ k, i = .decode k) ∧
    (t.rxovf = true → s.rxovf = false → ∃ b, i = .rxPush b) ∧
    (t.rxovf = false → s.rxovf = true → i = .rxClear) ∧
    (t.field ≠ s.field → ∃ sel, i = .field sel) ∧
    (t.chkCalc ≠ s.chkCalc ∨ t.chkRecv ≠ s.chkRecv →
      ∃ K : ReplyKind, i = .decode (replyCode K) ∧ s.rxovf = false ∧ s.rxlen.toNat = K.len) ∧
    (t.err ≠ s.err → i ≠ .nop) ∧
    t.pending = s.pending ∧ t.responses = s.responses

/-- Each command reports one of the codes its rule names, and no other (60_exceptions.md R180, R184): CRC_INIT, CRC_BYTE and RX_CLEAR
always NONE, RX_PUSH also RX_OVERFLOW, ENCODE also BAD_KIND, DECODE also BAD_KIND, LENGTH_MISMATCH and CHECKSUM_MISMATCH, FIELD also
NO_RECORD and BAD_FIELD; and what each leaves where it reports an error. -/
def Obligations.EachCommandReportsOnlyItsCodes : Prop :=
  (∀ s : State, ∃ t, exec .crcInit s = .next t ∧ t.err = 0) ∧
  (∀ (b : Byte) (s : State), ∃ t, exec (.crcByte b) s = .next t ∧ t.err = 0) ∧
  (∀ s : State, ∃ t, exec .rxClear s = .next t ∧ t.err = 0) ∧
  (∀ (b : Byte) (s : State), ∃ t, exec (.rxPush b) s = .next t ∧ (t.err = 0 ∨ t.err = 4) ∧
    (t.err = 4 → t.rxbuf = s.rxbuf ∧ t.rxlen = s.rxlen)) ∧
  (∀ (k : BitVec 4) (s : State), ∃ t, exec (.encode k) s = .next t ∧ (t.err = 0 ∨ t.err = 3) ∧
    (t.err = 3 → t = { s with err := 3 })) ∧
  (∀ (k : BitVec 4) (s : State), ∃ t, exec (.decode k) s = .next t ∧ (t.err = 0 ∨ t.err = 1 ∨ t.err = 2 ∨ t.err = 3) ∧
    (t.err = 0 ↔ t.recValid = true)) ∧
  (∀ (sel : Byte) (s : State), ∃ t, exec (.field sel) s = .next t ∧ (t.err = 0 ∨ t.err = 5 ∨ t.err = 6) ∧
    (t.err ≠ 0 → t.field = 0))

/-- R186: `STATUS.ERR` is not sticky, since no command's effect depends on it and every command but NOP writes it, and `RXOVF` is
sticky until `RX_CLEAR` or reset. -/
def Obligations.OnlyTheOverflowFlagIsSticky : Prop :=
  (∀ (i : Instr) (s : State) (e : BitVec 4), i ≠ .nop → exec i { s with err := e } = exec i s) ∧
  (∀ s t : State, step s = .next t → s.rxovf = true → t.rxovf = false →
    ∃ rest, s.pending = .reset :: rest ∨ s.pending = .write 0x00 4 0x00003000 :: rest) ∧
  (∀ s : State, ∃ t, exec .rxClear s = .next t ∧ t.rxovf = false) ∧
  (∀ s : State, (assertReset V s).rxovf = false)

/-! ## The laws the source requires -/

/-- R129: for the version record, the housekeeping record and the generic reply, every field of every record comes back bit-exact
from the frame built of it, whatever the state before, with or without `ENCODE` first; a selector without a field gives BAD_FIELD. -/
def Obligations.EveryRecordRoundTrips : Prop :=
  (∀ (r : VersionRecord) (s : State) (pre : List Instr), pre = [] ∨ pre = [.encode 3] →
    ∃ t, runCommands (pre ++ rxLoadCommands (sealFrame V (versionBody r)) ++ [.decode 3]) s = .next t ∧
      ReadsRecord t 3 (versionValue V r)) ∧
  (∀ (r : HousekeepingRecord) (s : State) (pre : List Instr), pre = [] ∨ pre = [.encode 4] →
    ∃ t, runCommands (pre ++ rxLoadCommands (sealFrame V (housekeepingBody r)) ++ [.decode 4]) s = .next t ∧
      ReadsRecord t 4 (housekeepingValue V P.rtcBits r)) ∧
  (∀ (r : GenericRecord) (s : State),
    ∃ t, runCommands (rxLoadCommands (sealFrame V (genericBody r)) ++ [.decode 5]) s = .next t ∧
      ReadsRecord t 5 (genericValue V r))

/-- R130: a reply of any other length than the kind's fails with LENGTH_MISMATCH whatever its bytes are, and the buffer holds the
first 37 bytes pushed, neither cut to the kind's length nor padded. -/
def Obligations.WrongLengthIsALengthMismatch : Prop :=
  ∀ (K : ReplyKind) (B : List Byte) (s : State), B.length ≠ K.len →
    ∃ t, runCommands (rxLoadCommands B ++ [.decode (replyCode K)]) s = .next t ∧ t.err = 1 ∧
      t.recValid = false ∧ t.rxlen.toNat = min B.length 37 ∧ bufPrefix t.rxbuf t.rxlen.toNat = B.take 37 ∧
      t.rxovf = decide (37 < B.length)

/-- R131: a well-formed reply with exactly one bit flipped, in any byte, fails with CHECKSUM_MISMATCH. -/
def Obligations.OneFlippedBitIsAChecksumMismatch : Prop :=
  ∀ (K : ReplyKind) (body : List Byte) (i j : Nat) (s : State), body.length + 1 = K.len → i < K.len → j < 8 →
    ∃ t, runCommands (rxLoadCommands (flipBit (sealFrame V body) i j) ++ [.decode (replyCode K)]) s = .next t ∧
      t.err = 2 ∧ t.recValid = false

/-- R132: after a failed `DECODE` no field can be read until a later `DECODE` succeeds, and that needs a changed `RXBUF` or another
kind. -/
def Obligations.AFailedDecodeLeavesNoRecord : Prop :=
  (∀ (k : BitVec 4) (s : State), ∃ t, exec (.decode k) s = .next t ∧
    (t.err ≠ 0 → t.recValid = false ∧
      ∀ u : State, u.rxbuf = t.rxbuf → u.rxlen = t.rxlen → u.rxovf = t.rxovf →
        ∃ w, exec (.decode k) u = .next w ∧ w.err = t.err)) ∧
  (∀ (sel : Byte) (s : State), s.recValid = false → exec (.field sel) s = .next { s with field := 0, err := 5 }) ∧
  (∀ (i : Instr) (s : State), s.recValid = false → ∃ t, exec i s = .next t ∧
    (t.recValid = true → t.err = 0 ∧ ∃ k, i = .decode k))

/-- R133: the outcome of `DECODE k`, and every `FIELD` value after it, depends only on `k` and on the bytes pushed since the last
`RX_CLEAR`, or since reset, whatever other commands stand between the pushes; the outcome of `ENCODE k` depends only on `k`. -/
def Obligations.TransactionsAreIndependent : Prop :=
  (∀ (k : BitVec 4) (cmds cmds' : List Instr) (s s' : State), .rxClear ∉ cmds → .rxClear ∉ cmds' →
    pushedBytes cmds = pushedBytes cmds' →
      SameReading (runCommands (.rxClear :: cmds ++ [.decode k]) s) (runCommands (.rxClear :: cmds' ++ [.decode k]) s')) ∧
  (∀ (k : BitVec 4) (cmds cmds' : List Instr) (s : State), .rxClear ∉ cmds → .rxClear ∉ cmds' →
    pushedBytes cmds = pushedBytes cmds' →
      SameReading (runCommands (.rxClear :: cmds ++ [.decode k]) s) (runCommands (cmds' ++ [.decode k]) State.reset)) ∧
  (∀ (k : BitVec 4) (s s' : State), ∃ t t', exec (.encode k) s = .next t ∧ exec (.encode k) s' = .next t' ∧
    t.err = t'.err ∧ (k.toNat < 5 → t.txbuf = t'.txbuf ∧ t.txlen = t'.txlen))

/-! ## Reset and invariants -/

/-- R33: the value of every element at reset, and what `CRC` then reads. -/
def Obligations.ResetGivesEveryElementItsValue : Prop :=
  State.reset.acc = V.init ∧ (∀ i, bufByte State.reset.txbuf i = 0) ∧ State.reset.txlen = 0 ∧
  (∀ i, bufByte State.reset.rxbuf i = 0) ∧ State.reset.rxlen = 0 ∧ windowWord V State.reset 0x04 = 0 ∧
  State.reset.err = 0 ∧ State.reset.recValid = false ∧ State.reset.rxovf = false ∧ State.reset.recKind = 0 ∧
  State.reset.field = 0 ∧ windowWord V State.reset 0x18 = 0 ∧
  windowByte V State.reset 0x08 = crcOut V V.init ∧ windowByte V State.reset 0x08 = crc8 V []

/-- The reset input, asserted between two accesses, puts every element into its reset value from every state and leaves what the
host has still to issue (70_reset_and_hazards.md section 1). That the host's side of the port stays is the model's choice: log
entry 8. -/
def Obligations.TheResetInputResetsTheBlock : Prop :=
  ∀ (s : State) (rest : List HostEvent), s.pending = .reset :: rest →
    step s = .next { State.reset with pending := rest, responses := s.responses }

/-- R202: right after reset any command may come first; `CRC_BYTE` computes from `CRC8_INIT`, `DECODE` sees an empty buffer
and reports LENGTH_MISMATCH where R123 does not find BAD_KIND first, `FIELD` reports NO_RECORD. -/
def Obligations.AnyCommandMayFollowReset : Prop :=
  (∀ i : Instr, ∃ t, exec i State.reset = .next t) ∧
  (∀ b : Byte, ∃ t, exec (.crcByte b) State.reset = .next t ∧ t.acc = crcUpdate V V.init b) ∧
  (∀ K : ReplyKind, ∃ t, exec (.decode (replyCode K)) State.reset = .next t ∧ t.err = 1) ∧
  (∀ k : BitVec 4, k ≠ 3 → k ≠ 4 → k ≠ 5 → ∃ t, exec (.decode k) State.reset = .next t ∧ t.err = 3) ∧
  (∀ sel : Byte, ∃ t, exec (.field sel) State.reset = .next t ∧ t.err = 5)

/-- The invariants of R37, and that `TXBUF` holds a request image (R23), hold at reset. -/
def Obligations.ResetMeetsTheInvariants : Prop :=
  BlockInv V State.reset ∧ TxHoldsRequest P State.reset

/-- Every step keeps the invariants of R37, from every state that meets them and not only from reset. -/
def Obligations.EveryStepKeepsTheInvariants : Prop :=
  ∀ s t : State, BlockInv V s → step s = .next t → BlockInv V t

/-- Every step keeps `TXBUF[0..TXLEN-1]` a request image with zeros after it (R23, R24). -/
def Obligations.EveryStepKeepsTheRequestInTheBuffer : Prop :=
  ∀ s t : State, TxHoldsRequest P s → step s = .next t → TxHoldsRequest P t

/-! ## The host port -/

/-- R53: which accesses are admitted. -/
def Obligations.TheAdmittedAccesses : Prop :=
  (∀ (off : Offset) (n : Nat) (s : State),
    ((∃ r, busRead V off n s = .ok r) ↔ n = 1 ∨ (n = 4 ∧ off.toNat % 4 = 0)) ∧
    ((∃ r, busRead V off n s = .ok r) ∨ busRead V off n s = .error (.busError off))) ∧
  (∀ (off : Offset) (n : Nat) (w : Word) (s : State),
    ((∃ o, busWrite off n w s = .ok o) ↔ n = 4 ∧ off.toNat % 4 = 0) ∧
    ((∃ o, busWrite off n w s = .ok o) ∨ busWrite off n w s = .error (.busError off)))

/-- A refused access changes nothing of the block and gives the host the error response (20_memory.md R57, 60_exceptions.md R182).
The
queue and the answers are the model's, log entries 2 and 3, and that the machine then goes on with the host's next access is log
entry 5. -/
def Obligations.ARefusedAccessChangesNothing : Prop :=
  ∀ (s : State) (rest : List HostEvent) (off : Offset) (n : Nat) (w : Word),
    (s.pending = .read off n :: rest → n ≠ 1 → ¬ (n = 4 ∧ off.toNat % 4 = 0) →
      step s = .next { s with pending := rest, responses := s.responses ++ [.busError off] }) ∧
    (s.pending = .write off n w :: rest → ¬ (n = 4 ∧ off.toNat % 4 = 0) →
      step s = .next { s with pending := rest, responses := s.responses ++ [.busError off] })

/-- A read answers the bytes of the window and changes no element of the block; `CMD`, the reserved offsets and the read-as-zero bits
read 0 (20_memory.md section 2). The queue the step takes the access from and the answers it adds to are the model's: log entries
2 and 3. -/
def Obligations.ReadsHaveNoSideEffect : Prop :=
  (∀ (s : State) (rest : List HostEvent) (off : Offset), s.pending = .read off 1 :: rest →
    step s = .next { s with pending := rest, responses := s.responses ++ [.byte (windowByte V s off)] }) ∧
  (∀ (s : State) (rest : List HostEvent) (off : Offset), s.pending = .read off 4 :: rest → off.toNat % 4 = 0 →
    step s = .next { s with pending := rest, responses := s.responses ++ [.word (windowWord V s off)] }) ∧
  (∀ (s : State) (off : Offset), off.toNat < 0x04 ∨ (0x1C ≤ off.toNat ∧ off.toNat < 0x40) ∨
    (0x65 ≤ off.toNat ∧ off.toNat < 0x80) ∨ 0xA5 ≤ off.toNat → windowByte V s off = 0) ∧
  (∀ s : State, (windowWord V s 0x04) &&& 0xFFFFF0C0 = 0 ∧ (windowWord V s 0x08) &&& 0xFFFFFF00 = 0 ∧
    (windowWord V s 0x0C) &&& 0xFFFFFFC0 = 0 ∧ (windowWord V s 0x10) &&& 0xFFFFFFC0 = 0 ∧
    (windowWord V s 0x18) &&& 0xFFFF0000 = 0)

/-- A 4-byte write at 0x00 runs the command, twice if it is written twice, and at any other aligned offset it is ignored (20_memory.md
section 2). The queue the step takes the access from and the completion it answers are the model's: log entries 2 and 3. -/
def Obligations.OnlyAWriteToCmdHasAnEffect : Prop :=
  (∀ (s : State) (rest : List HostEvent) (w : Word), s.pending = .write 0x00 4 w :: rest →
    step s = andThen (runCommand w { s with pending := rest }) fun t =>
      .next { t with responses := t.responses ++ [.written] }) ∧
  (∀ (s : State) (rest : List HostEvent) (off : Offset) (w : Word), s.pending = .write off 4 w :: rest →
    off.toNat % 4 = 0 → off ≠ 0x00 →
    step s = .next { s with pending := rest, responses := s.responses ++ [.written] }) ∧
  (∀ s : State, s.rxlen.toNat < 36 → ∃ t, Host.Core.run core 2 { s with pending := [.write 0 4 0x4000, .write 0 4 0x4000] } = .next t ∧
    t.rxlen.toNat = s.rxlen.toNat + 2)

/-- R52: registers are little-endian, so a word read and the four byte reads agree, and a word of a buffer window is the
little-endian value of four of its bytes, zero past index 36. -/
def Obligations.WordReadsAreLittleEndian : Prop :=
  (∀ (s : State) (off : Offset), off.toNat % 4 = 0 →
    (windowWord V s off).toNat = ∑ t ∈ Finset.range 4, (windowByte V s (off + BitVec.ofNat 8 t)).toNat * 2 ^ (8 * t)) ∧
  (∀ (s : State) (off : Offset) (t : Nat), off.toNat % 4 = 0 → t < 4 →
    (windowWord V s off).extractLsb' (8 * t) 8 = windowByte V s (off + BitVec.ofNat 8 t)) ∧
  (∀ (s : State) (j : Nat), j < 16 → (windowWord V s (BitVec.ofNat 8 (0x40 + 4 * j))).toNat = littleEndian s.txbuf (4 * j) 4) ∧
  (∀ (s : State) (j : Nat), j < 32 → (windowWord V s (BitVec.ofNat 8 (0x80 + 4 * j))).toNat = littleEndian s.rxbuf (4 * j) 4) ∧
  (∀ (B : Buffer) (i : Nat), 37 ≤ i → bufByte B i = 0)

/-- R35: the offset map. -/
def Obligations.TheOffsetMap : Prop :=
  (∀ s : State, windowWord V s 0x00 = 0 ∧ windowWord V s 0x04 = statusWord s ∧
    windowWord V s 0x08 = (crcOut V s.acc).setWidth 32 ∧ windowWord V s 0x0C = s.txlen.setWidth 32 ∧
    windowWord V s 0x10 = s.rxlen.setWidth 32 ∧ windowWord V s 0x14 = s.field ∧
    windowByte V s 0x18 = s.chkCalc ∧ windowByte V s 0x19 = s.chkRecv ∧ windowByte V s 0x1A = 0 ∧ windowByte V s 0x1B = 0) ∧
  (∀ (s : State) (i : Nat) (h : i < 37), windowByte V s (BitVec.ofNat 8 (0x40 + i)) = s.txbuf[i]'h ∧
    windowByte V s (BitVec.ofNat 8 (0x80 + i)) = s.rxbuf[i]'h) ∧
  (∀ (s : State) (off : Offset), (0x1C ≤ off.toNat ∧ off.toNat ≤ 0x3F) ∨ (0x65 ≤ off.toNat ∧ off.toNat ≤ 0x7F) ∨
    0xA5 ≤ off.toNat → windowByte V s off = 0) ∧
  (∀ (s : State) (off : Offset) (w : Word), off.toNat % 4 = 0 → off ≠ 0x00 → busWrite off 4 w s = .ok (.next s))

/-- The fields of STATUS are where 10_state.md R28 puts them, and its reserved bits read 0. -/
def Obligations.StatusShowsItsFields : Prop :=
  ∀ s : State, (windowWord V s 0x04).extractLsb' 0 4 = s.err ∧ (windowWord V s 0x04).getLsbD 4 = s.recValid ∧
    (windowWord V s 0x04).getLsbD 5 = s.rxovf ∧ (windowWord V s 0x04).extractLsb' 6 2 = 0 ∧
    (windowWord V s 0x04).extractLsb' 8 4 = s.recKind ∧ (windowWord V s 0x04).extractLsb' 12 20 = 0

/-- Host address `BLOCK_BASE + off` reaches offset `off`, and no address outside the window reaches the block (10_state.md R34). -/
def Obligations.TheWindowLiesAtTheBase : Prop :=
  (∀ (p : Params) (off : Offset), offsetOfAddress p (hostAddress p off) = some off) ∧
  (∀ (p : Params) (a : Nat), a < p.blockBase ∨ p.blockBase + 256 ≤ a → offsetOfAddress p a = none) ∧
  (∀ (p : Params) (a : Nat) (off : Offset), offsetOfAddress p a = some off → hostAddress p off = a)

/-- No state stops the machine: every step answers a next state, takes one access from the host's stream and adds to the answers
(60_exceptions.md section 4: no trap, no later command is blocked). The queue and the answers are the model's, log entries 2 and 3, and
so is that a bus error is answered, log entry 5. -/
def Obligations.NoStateStopsTheMachine : Prop :=
  ∀ s : State, ∃ t, step s = .next t ∧ t.pending = s.pending.tail ∧ s.responses <+: t.responses

/-- A host that issues only admitted accesses never gets an error response, however long it runs (20_memory.md section 2). The
queue and the answers are the model's: log entries 2 and 3. -/
def Obligations.AdmittedAccessesAreNeverRefused : Prop :=
  ∀ (n : Nat) (s : State), NoAccessRefused s → (∀ e ∈ s.pending, admittedEvent e = true) →
    ∃ t, Host.Core.run core n s = .next t ∧ NoAccessRefused t

/-- Reads, refused accesses and writes to other offsets can be dropped from the host's stream, or inserted anywhere, without any effect
on the block (20_memory.md R54, R55, R57): the block ends as it does when only its commands and resets are served. The
queue is the model's, log entry 2, and that a refused access is answered and passed over is log entry 5. -/
def Obligations.OnlyCommandsAndResetsReachTheBlock : Prop :=
  ∀ (events : List HostEvent) (s : State),
    ∃ t t', Host.Core.run core events.length { s with pending := events } = .next t ∧
      Host.Core.run core (events.filter reachesTheBlock).length { s with pending := events.filter reachesTheBlock } = .next t' ∧
      SameBlock t t'

/-- A stream of command writes, served step by step, is the commands run one after the other, each complete before the next, with one
completion answered for each (20_memory.md section 4). The queue and the completions are the model's: log entries 2 and 3. -/
def Obligations.TheStreamOfWritesRunsTheCommandsInOrder : Prop :=
  ∀ (cmds : List Instr) (s : State) (rest : List HostEvent),
    Host.Core.run core cmds.length { s with pending := commandEvents cmds ++ rest } =
      andThen (runCommands cmds { s with pending := rest }) fun t =>
        .next { t with responses := t.responses ++ List.replicate cmds.length .written }

/-! ## The host's transactions -/

/-- Served step by step, `ENCODE k` followed by `TX_READ REQ_LEN[k]` answers the host the request image byte for byte, from any state
(43_host_operations.md sections 2 and 3). The queue and the answers are the model's: log entries 2 and 3. -/
def Obligations.TheRequestIsReadOutByteForByte : Prop :=
  ∀ (k : RequestKind) (s : State),
    ∃ t, Host.Core.run core (1 + k.len)
        { s with pending := commandEvents [.encode (requestCode k)] ++ txReadEvents k.len } = .next t ∧
      t.responses = s.responses ++ [.written] ++ (reqImage P k).map .byte

/-- A fire-and-forget transaction hands over the request image and its result depends only on the transport's outcome; no reply byte is
looked at and the reply side of the block is not used (43_host_operations.md section 2). Where the remote operation resets the block,
that the reset falls after the hand-over is log entry 9, and that it leaves the host's side of the port is log entry 8. -/
def Obligations.FireAndForgetDependsOnlyOnTheTransport : Prop :=
  ∀ (k : FireAndForget) (x : Exchange) (resets : Bool) (s : State),
    ∃ T, opFireAndForget P k x resets s = .next T ∧ T.request = some (reqImage P (fireRequest k)) ∧
      (x = .transportError → T.outcome = .transportError) ∧
      (∀ bytes, x = .reply bytes → T.outcome = .success []) ∧
      (resets = false → T.block = { s with txbuf := T.block.txbuf, txlen := T.block.txlen, err := 0 }) ∧
      (resets = true → T.block = { State.reset with pending := s.pending, responses := s.responses })

/-- A query transaction fails with the transport, with LengthMismatch on a reply of another length, with ChecksumMismatch on a reply
whose last byte is not the checksum of the others, and otherwise succeeds; and a caller that asks only for fields the record has
never sees a host fault (43_host_operations.md sections 2: R163, R164). -/
def Obligations.QueryOutcomesFollowTheReply : Prop :=
  ∀ (q : Query) (sels : List Byte) (s : State), (∀ sel ∈ sels, (fieldEntry P.rtcBits (queryReply q) sel).isSome) →
    (∃ T, opQuery P q .transportError sels s = .next T ∧ T.outcome = .transportError ∧
      T.request = some (reqImage P (queryRequest q))) ∧
    (∀ bytes : List Byte, ∃ T, opQuery P q (.reply bytes) sels s = .next T ∧ T.request = some (reqImage P (queryRequest q)) ∧
      (bytes.length ≠ (queryReply q).len → T.outcome = .lengthMismatch) ∧
      (∀ body c, bytes = body ++ [c] → bytes.length = (queryReply q).len →
        (c ≠ crc8 V body → T.outcome = .checksumMismatch) ∧
        (c = crc8 V body → ∃ values, T.outcome = .success values ∧ values.length = sels.length)))

/-- A query whose exchange delivers the frame of a record returns to its caller exactly the values of that record
(43_host_operations.md R163, 41_frame_codec.md R129), whatever the state of the block before. -/
def Obligations.TheQueriesReturnTheRecord : Prop :=
  (∀ (r : HousekeepingRecord) (sels : List Byte) (values : List Word) (s : State),
    sels.mapM (fun sel => housekeepingValue V P.rtcBits r sel.toNat) = some values →
    ∃ T, opQuery P .getHousekeeping (.reply (sealFrame V (housekeepingBody r))) sels s = .next T ∧
      T.outcome = .success values) ∧
  (∀ (r : VersionRecord) (sels : List Byte) (values : List Word) (s : State),
    sels.mapM (fun sel => versionValue V r sel.toNat) = some values →
    ∃ T, opQuery P .getVersion (.reply (sealFrame V (versionBody r))) sels s = .next T ∧
      T.outcome = .success values)
end

