-- ==== Sys2Proof/Laws/State.lean ====
section
/-! SUPPORT. One lemma per field of State for each shared update of it, true by definition, so that no later proof unfolds a
record update. -/

namespace Sys2Proof.Laws

open Sys2Proof.Machine

/-! ## raiseErr -/

@[simp] theorem raiseErr_acc (c : ErrCode) (s : State) : (raiseErr c s).acc = s.acc := rfl
@[simp] theorem raiseErr_txbuf (c : ErrCode) (s : State) : (raiseErr c s).txbuf = s.txbuf := rfl
@[simp] theorem raiseErr_txlen (c : ErrCode) (s : State) : (raiseErr c s).txlen = s.txlen := rfl
@[simp] theorem raiseErr_rxbuf (c : ErrCode) (s : State) : (raiseErr c s).rxbuf = s.rxbuf := rfl
@[simp] theorem raiseErr_rxlen (c : ErrCode) (s : State) : (raiseErr c s).rxlen = s.rxlen := rfl
@[simp] theorem raiseErr_err (c : ErrCode) (s : State) : (raiseErr c s).err = c.code := rfl
@[simp] theorem raiseErr_recValid (c : ErrCode) (s : State) : (raiseErr c s).recValid = s.recValid := rfl
@[simp] theorem raiseErr_rxovf (c : ErrCode) (s : State) : (raiseErr c s).rxovf = s.rxovf := rfl
@[simp] theorem raiseErr_recKind (c : ErrCode) (s : State) : (raiseErr c s).recKind = s.recKind := rfl
@[simp] theorem raiseErr_field (c : ErrCode) (s : State) : (raiseErr c s).field = s.field := rfl
@[simp] theorem raiseErr_chkCalc (c : ErrCode) (s : State) : (raiseErr c s).chkCalc = s.chkCalc := rfl
@[simp] theorem raiseErr_chkRecv (c : ErrCode) (s : State) : (raiseErr c s).chkRecv = s.chkRecv := rfl
@[simp] theorem raiseErr_pending (c : ErrCode) (s : State) : (raiseErr c s).pending = s.pending := rfl
@[simp] theorem raiseErr_responses (c : ErrCode) (s : State) : (raiseErr c s).responses = s.responses := rfl

/-! ## done -/

@[simp] theorem done_acc (s : State) : (done s).acc = s.acc := rfl
@[simp] theorem done_txbuf (s : State) : (done s).txbuf = s.txbuf := rfl
@[simp] theorem done_txlen (s : State) : (done s).txlen = s.txlen := rfl
@[simp] theorem done_rxbuf (s : State) : (done s).rxbuf = s.rxbuf := rfl
@[simp] theorem done_rxlen (s : State) : (done s).rxlen = s.rxlen := rfl
@[simp] theorem done_err (s : State) : (done s).err = 0 := rfl
@[simp] theorem done_recValid (s : State) : (done s).recValid = s.recValid := rfl
@[simp] theorem done_rxovf (s : State) : (done s).rxovf = s.rxovf := rfl
@[simp] theorem done_recKind (s : State) : (done s).recKind = s.recKind := rfl
@[simp] theorem done_field (s : State) : (done s).field = s.field := rfl
@[simp] theorem done_chkCalc (s : State) : (done s).chkCalc = s.chkCalc := rfl
@[simp] theorem done_chkRecv (s : State) : (done s).chkRecv = s.chkRecv := rfl
@[simp] theorem done_pending (s : State) : (done s).pending = s.pending := rfl
@[simp] theorem done_responses (s : State) : (done s).responses = s.responses := rfl

/-! ## dropRecord -/

@[simp] theorem dropRecord_acc (s : State) : (dropRecord s).acc = s.acc := rfl
@[simp] theorem dropRecord_txbuf (s : State) : (dropRecord s).txbuf = s.txbuf := rfl
@[simp] theorem dropRecord_txlen (s : State) : (dropRecord s).txlen = s.txlen := rfl
@[simp] theorem dropRecord_rxbuf (s : State) : (dropRecord s).rxbuf = s.rxbuf := rfl
@[simp] theorem dropRecord_rxlen (s : State) : (dropRecord s).rxlen = s.rxlen := rfl
@[simp] theorem dropRecord_err (s : State) : (dropRecord s).err = s.err := rfl
@[simp] theorem dropRecord_recValid (s : State) : (dropRecord s).recValid = false := rfl
@[simp] theorem dropRecord_rxovf (s : State) : (dropRecord s).rxovf = s.rxovf := rfl
@[simp] theorem dropRecord_recKind (s : State) : (dropRecord s).recKind = 0 := rfl
@[simp] theorem dropRecord_field (s : State) : (dropRecord s).field = s.field := rfl
@[simp] theorem dropRecord_chkCalc (s : State) : (dropRecord s).chkCalc = s.chkCalc := rfl
@[simp] theorem dropRecord_chkRecv (s : State) : (dropRecord s).chkRecv = s.chkRecv := rfl
@[simp] theorem dropRecord_pending (s : State) : (dropRecord s).pending = s.pending := rfl
@[simp] theorem dropRecord_responses (s : State) : (dropRecord s).responses = s.responses := rfl

/-! ## illegalCommand -/

@[simp] theorem illegalCommand_acc (s : State) : (illegalCommand s).acc = s.acc := rfl
@[simp] theorem illegalCommand_txbuf (s : State) : (illegalCommand s).txbuf = s.txbuf := rfl
@[simp] theorem illegalCommand_txlen (s : State) : (illegalCommand s).txlen = s.txlen := rfl
@[simp] theorem illegalCommand_rxbuf (s : State) : (illegalCommand s).rxbuf = s.rxbuf := rfl
@[simp] theorem illegalCommand_rxlen (s : State) : (illegalCommand s).rxlen = s.rxlen := rfl
@[simp] theorem illegalCommand_err (s : State) : (illegalCommand s).err = 7 := rfl
@[simp] theorem illegalCommand_recValid (s : State) : (illegalCommand s).recValid = s.recValid := rfl
@[simp] theorem illegalCommand_rxovf (s : State) : (illegalCommand s).rxovf = s.rxovf := rfl
@[simp] theorem illegalCommand_recKind (s : State) : (illegalCommand s).recKind = s.recKind := rfl
@[simp] theorem illegalCommand_field (s : State) : (illegalCommand s).field = s.field := rfl
@[simp] theorem illegalCommand_chkCalc (s : State) : (illegalCommand s).chkCalc = s.chkCalc := rfl
@[simp] theorem illegalCommand_chkRecv (s : State) : (illegalCommand s).chkRecv = s.chkRecv := rfl
@[simp] theorem illegalCommand_pending (s : State) : (illegalCommand s).pending = s.pending := rfl
@[simp] theorem illegalCommand_responses (s : State) : (illegalCommand s).responses = s.responses := rfl

/-! ## respond -/

@[simp] theorem respond_acc (r : Response) (s : State) : (respond r s).acc = s.acc := rfl
@[simp] theorem respond_txbuf (r : Response) (s : State) : (respond r s).txbuf = s.txbuf := rfl
@[simp] theorem respond_txlen (r : Response) (s : State) : (respond r s).txlen = s.txlen := rfl
@[simp] theorem respond_rxbuf (r : Response) (s : State) : (respond r s).rxbuf = s.rxbuf := rfl
@[simp] theorem respond_rxlen (r : Response) (s : State) : (respond r s).rxlen = s.rxlen := rfl
@[simp] theorem respond_err (r : Response) (s : State) : (respond r s).err = s.err := rfl
@[simp] theorem respond_recValid (r : Response) (s : State) : (respond r s).recValid = s.recValid := rfl
@[simp] theorem respond_rxovf (r : Response) (s : State) : (respond r s).rxovf = s.rxovf := rfl
@[simp] theorem respond_recKind (r : Response) (s : State) : (respond r s).recKind = s.recKind := rfl
@[simp] theorem respond_field (r : Response) (s : State) : (respond r s).field = s.field := rfl
@[simp] theorem respond_chkCalc (r : Response) (s : State) : (respond r s).chkCalc = s.chkCalc := rfl
@[simp] theorem respond_chkRecv (r : Response) (s : State) : (respond r s).chkRecv = s.chkRecv := rfl
@[simp] theorem respond_pending (r : Response) (s : State) : (respond r s).pending = s.pending := rfl
@[simp] theorem respond_responses (r : Response) (s : State) : (respond r s).responses = s.responses ++ [r] := rfl

/-! ## assertReset -/

@[simp] theorem assertReset_acc (v : CrcVariant) (s : State) : (assertReset v s).acc = v.init := rfl
@[simp] theorem assertReset_txbuf (v : CrcVariant) (s : State) : (assertReset v s).txbuf = Vector.replicate 37 0 := rfl
@[simp] theorem assertReset_txlen (v : CrcVariant) (s : State) : (assertReset v s).txlen = 0 := rfl
@[simp] theorem assertReset_rxbuf (v : CrcVariant) (s : State) : (assertReset v s).rxbuf = Vector.replicate 37 0 := rfl
@[simp] theorem assertReset_rxlen (v : CrcVariant) (s : State) : (assertReset v s).rxlen = 0 := rfl
@[simp] theorem assertReset_err (v : CrcVariant) (s : State) : (assertReset v s).err = 0 := rfl
@[simp] theorem assertReset_recValid (v : CrcVariant) (s : State) : (assertReset v s).recValid = false := rfl
@[simp] theorem assertReset_rxovf (v : CrcVariant) (s : State) : (assertReset v s).rxovf = false := rfl
@[simp] theorem assertReset_recKind (v : CrcVariant) (s : State) : (assertReset v s).recKind = 0 := rfl
@[simp] theorem assertReset_field (v : CrcVariant) (s : State) : (assertReset v s).field = 0 := rfl
@[simp] theorem assertReset_chkCalc (v : CrcVariant) (s : State) : (assertReset v s).chkCalc = 0 := rfl
@[simp] theorem assertReset_chkRecv (v : CrcVariant) (s : State) : (assertReset v s).chkRecv = 0 := rfl
@[simp] theorem assertReset_pending (v : CrcVariant) (s : State) : (assertReset v s).pending = s.pending := rfl
@[simp] theorem assertReset_responses (v : CrcVariant) (s : State) : (assertReset v s).responses = s.responses := rfl

/-! ## resetWith -/

@[simp] theorem resetWith_acc (v : CrcVariant) : (State.resetWith v).acc = v.init := rfl
@[simp] theorem resetWith_txbuf (v : CrcVariant) : (State.resetWith v).txbuf = Vector.replicate 37 0 := rfl
@[simp] theorem resetWith_txlen (v : CrcVariant) : (State.resetWith v).txlen = 0 := rfl
@[simp] theorem resetWith_rxbuf (v : CrcVariant) : (State.resetWith v).rxbuf = Vector.replicate 37 0 := rfl
@[simp] theorem resetWith_rxlen (v : CrcVariant) : (State.resetWith v).rxlen = 0 := rfl
@[simp] theorem resetWith_err (v : CrcVariant) : (State.resetWith v).err = 0 := rfl
@[simp] theorem resetWith_recValid (v : CrcVariant) : (State.resetWith v).recValid = false := rfl
@[simp] theorem resetWith_rxovf (v : CrcVariant) : (State.resetWith v).rxovf = false := rfl
@[simp] theorem resetWith_recKind (v : CrcVariant) : (State.resetWith v).recKind = 0 := rfl
@[simp] theorem resetWith_field (v : CrcVariant) : (State.resetWith v).field = 0 := rfl
@[simp] theorem resetWith_chkCalc (v : CrcVariant) : (State.resetWith v).chkCalc = 0 := rfl
@[simp] theorem resetWith_chkRecv (v : CrcVariant) : (State.resetWith v).chkRecv = 0 := rfl
@[simp] theorem resetWith_pending (v : CrcVariant) : (State.resetWith v).pending = [] := rfl
@[simp] theorem resetWith_responses (v : CrcVariant) : (State.resetWith v).responses = [] := rfl

/-! ## State.reset -/

theorem reset_eq : State.reset = State.resetWith Config.params.crc := rfl

/-! ## Sequencing -/

@[simp] theorem andThen_next {σ τ φ ρ : Type} (s : σ) (f : σ → Host.Outcome τ φ ρ) :
    andThen (.next s) f = f s := rfl

@[simp] theorem andThen_fault {σ τ φ ρ : Type} (r : φ) (f : σ → Host.Outcome τ φ ρ) :
    andThen (.fault r) f = .fault r := rfl

@[simp] theorem andThen_refused {σ τ φ ρ : Type} (r : ρ) (f : σ → Host.Outcome τ φ ρ) :
    andThen (.refused r) f = .refused r := rfl

end Sys2Proof.Laws
end

