-- ==== Sys2Proof/Laws/Ops.lean ====
section
/-! SUPPORT. What the shared operations over bytes, buffers, the CRC register and kinds do, one lemma each, so that no later
proof unfolds them. -/

namespace Sys2Proof.Laws

open Sys2Proof.Machine

/-! ## Buffers -/

theorem bufByte_of_ge (B : Buffer) {i : Nat} (h : 37 ≤ i) : bufByte B i = 0 := by
  simp [bufByte, Vector.getElem?_eq_none_iff.mpr h]

theorem bufByte_of_lt (B : Buffer) {i : Nat} (h : i < 37) : bufByte B i = B[i] := by
  simp [bufByte, h]

@[simp] theorem bufByte_replicate (i : Nat) : bufByte (Vector.replicate 37 0) i = 0 := by
  simp only [bufByte, Vector.getElem?_replicate]
  split <;> rfl

theorem bufByte_bufOf (l : List Byte) (i : Nat) :
    bufByte (bufOf l) i = if i < 37 then l.getD i 0 else 0 := by
  simp only [bufByte, bufOf, Vector.getElem?_ofFn]
  split <;> rfl

theorem bufByte_bufSet (B : Buffer) (i j : Nat) (b : Byte) :
    bufByte (bufSet B i b) j = if j = i ∧ i < 37 then b else bufByte B j := by
  simp only [bufByte, bufSet, Vector.getElem?_setIfInBounds]
  by_cases hij : i = j
  · subst hij
    by_cases h : i < 37
    · simp [h]
    · simp [h]
  · simp [hij, Ne.symm hij]

/-- Two buffers that show the same bytes are the same buffer. -/
theorem buffer_ext {A B : Buffer} (h : ∀ i, bufByte A i = bufByte B i) : A = B := by
  apply Vector.ext
  intro i hi
  simpa [bufByte_of_lt _ hi] using h i

theorem bufPrefix_length (B : Buffer) (n : Nat) : (bufPrefix B n).length = min n 37 := by
  simp [bufPrefix]

theorem bufPrefix_getElem? (B : Buffer) {n i : Nat} (hi : i < n) (h37 : i < 37) :
    (bufPrefix B n)[i]? = some (bufByte B i) := by
  simp [bufPrefix, hi, bufByte_of_lt B h37, h37]

/-- A prefix is the list of the bytes it shows. -/
theorem bufPrefix_eq_iff (B : Buffer) {l : List Byte} (h : l.length ≤ 37) :
    bufPrefix B l.length = l ↔ ∀ i, i < l.length → bufByte B i = l.getD i 0 := by
  constructor
  · intro e i hi
    have := bufPrefix_getElem? B hi (by omega)
    rw [e] at this
    simp [this]
  · intro hb
    apply List.ext_getElem?
    intro i
    by_cases hi : i < l.length
    · rw [bufPrefix_getElem? B hi (by omega), hb i hi]
      simp [hi]
    · rw [List.getElem?_eq_none (by rw [bufPrefix_length]; omega), List.getElem?_eq_none (by omega)]

theorem bufPrefix_bufOf {l : List Byte} (h : l.length ≤ 37) : bufPrefix (bufOf l) l.length = l := by
  rw [bufPrefix_eq_iff _ h]
  intro i hi
  rw [bufByte_bufOf, if_pos (by omega)]

/-- A shorter prefix of a prefix. -/
theorem bufPrefix_take (B : Buffer) {m n : Nat} (h : m ≤ n) : (bufPrefix B n).take m = bufPrefix B m := by
  simp [bufPrefix, List.take_take, Nat.min_eq_left h]

/-! ## Little-endian sums -/

@[simp] theorem leSum_zero (B : Buffer) (o : Nat) : leSum B o 0 = 0 := rfl

theorem leSum_succ (B : Buffer) (o n : Nat) :
    leSum B o (n + 1) = leSum B o n + (bufByte B (o + n)).toNat * 2 ^ (8 * n) := rfl

theorem leSum_lt (B : Buffer) (o n : Nat) : leSum B o n < 2 ^ (8 * n) := by
  induction n with
  | zero => simp
  | succ n ih =>
    have hb := (bufByte B (o + n)).isLt
    have : (bufByte B (o + n)).toNat * 2 ^ (8 * n) ≤ 255 * 2 ^ (8 * n) := Nat.mul_le_mul_right _ (by omega)
    rw [leSum_succ, show 8 * (n + 1) = 8 * n + 8 from by ring, pow_add]
    omega

/-- A field of at most four bytes loses nothing in the 32-bit register. -/
theorem leField_toNat (B : Buffer) (o : Nat) {n : Nat} (h : n ≤ 4) : (leField B o n).toNat = leSum B o n := by
  have hlt := leSum_lt B o n
  have hle : 2 ^ (8 * n) ≤ 2 ^ 32 := Nat.pow_le_pow_right (by omega) (by omega)
  rw [leField, BitVec.toNat_ofNat, Nat.mod_eq_of_lt (by omega)]

theorem leField_one (B : Buffer) (o : Nat) : leField B o 1 = (bufByte B o).setWidth 32 := by
  apply BitVec.eq_of_toNat_eq
  have := (bufByte B o).isLt
  rw [leField_toNat B o (by omega)]
  simp [leSum_succ]
  omega

/-! ## The CRC register -/

theorem getLsbD_rev8 (x : Byte) {i : Nat} (h : i < 8) : (rev8 x).getLsbD i = x.getLsbD (7 - i) := by
  rw [rev8, BitVec.getLsbD_reverse, BitVec.getMsbD_eq_getLsbD]
  simp [h]

@[simp] theorem rev8_rev8 (x : Byte) : rev8 (rev8 x) = x := by
  simp [rev8]

@[simp] theorem crcFold_nil (v : CrcVariant) (c : Byte) : crcFold v c [] = c := rfl

@[simp] theorem crcFold_cons (v : CrcVariant) (c b : Byte) (B : List Byte) :
    crcFold v c (b :: B) = crcFold v (crcUpdate v c b) B := rfl

/-- Continuation (40_checksum.md R103 item 1). -/
theorem crcFold_append (v : CrcVariant) (c : Byte) (A B : List Byte) :
    crcFold v c (A ++ B) = crcFold v (crcFold v c A) B := by
  simp [crcFold]

theorem crc8_eq_out_fold (v : CrcVariant) (B : List Byte) : crc8 v B = crcOut v (crcFold v v.init B) := rfl

/-! ## Kinds -/

@[simp] theorem requestOfCode_requestCode (k : RequestKind) : requestOfCode (requestCode k) = some k := by
  cases k <;> rfl

@[simp] theorem replyOfCode_replyCode (k : ReplyKind) : replyOfCode (replyCode k) = some k := by
  cases k <;> rfl

theorem requestOfCode_eq_none_iff (k : BitVec 4) : requestOfCode k = none ↔ 5 ≤ k.toNat := by
  revert k; decide

theorem replyOfCode_eq_none_iff (k : BitVec 4) : replyOfCode k = none ↔ k ≠ 3 ∧ k ≠ 4 ∧ k ≠ 5 := by
  revert k; decide

theorem requestOfCode_eq_some_iff (k : BitVec 4) (K : RequestKind) :
    requestOfCode k = some K ↔ k = requestCode K := by
  cases K <;> revert k <;> decide

theorem replyOfCode_eq_some_iff (k : BitVec 4) (K : ReplyKind) : replyOfCode k = some K ↔ k = replyCode K := by
  cases K <;> revert k <;> decide

theorem requestLen_le (k : RequestKind) : 3 ≤ k.len ∧ k.len ≤ 37 := by
  cases k <;> decide

theorem replyLen_le (k : ReplyKind) : 3 ≤ k.len ∧ k.len ≤ 37 := by
  cases k <;> decide

end Sys2Proof.Laws
end

