-- ==== Sys2Proof/Laws/Codec.lean ====
section
/-! SUPPORT. What each command does to the state, once for each way it can end: the lemmas the provers cite instead of unfolding
a command. -/

namespace Sys2Proof.Laws

open Sys2Proof.Machine

/-! ## CRC_INIT, CRC_BYTE -/

theorem crcInit_eq (v : CrcVariant) (s : State) : crcInit v s = { s with acc := v.init, err := 0 } := rfl

theorem crcByte_eq (v : CrcVariant) (b : Byte) (s : State) :
    crcByte v b s = { s with acc := crcUpdate v s.acc b, err := 0 } := rfl

/-! ## RX_CLEAR, RX_PUSH -/

theorem rxClear_eq (s : State) :
    rxClear s = { s with rxbuf := Vector.replicate 37 0, rxlen := 0, rxovf := false, recValid := false, recKind := 0,
                         err := 0 } := rfl

theorem rxPush_of_lt (b : Byte) {s : State} (h : s.rxlen.toNat < 37) :
    rxPush b s = { s with rxbuf := bufSet s.rxbuf s.rxlen.toNat b, rxlen := s.rxlen + 1, recValid := false, recKind := 0,
                          err := 0 } := by
  rw [rxPush, if_pos h]; rfl

theorem rxPush_of_full (b : Byte) {s : State} (h : ¬ s.rxlen.toNat < 37) :
    rxPush b s = { s with rxovf := true, recValid := false, recKind := 0, err := 4 } := by
  rw [rxPush, if_neg h]; rfl

/-! ## ENCODE -/

theorem reqImage_length (p : Params) (k : RequestKind) : (reqImage p k).length = k.len := by
  have := requestLen_le k
  unfold reqImage
  split
  · simp; omega
  · simp

theorem encodeFrame_request (p : Params) (k : RequestKind) (s : State) :
    encodeFrame p (requestCode k) s =
      { s with txbuf := bufOf (reqImage p k), txlen := BitVec.ofNat 6 k.len, err := 0 } := by
  rw [encodeFrame, requestOfCode_requestCode]; rfl

theorem encodeFrame_of_none (p : Params) {k : BitVec 4} (s : State) (h : requestOfCode k = none) :
    encodeFrame p k s = { s with err := 3 } := by
  rw [encodeFrame, h]; rfl

/-- The two ways `ENCODE` ends. -/
theorem encodeFrame_cases (p : Params) (k : BitVec 4) (s : State) :
    (∃ K, k = requestCode K ∧
      encodeFrame p k s = { s with txbuf := bufOf (reqImage p K), txlen := BitVec.ofNat 6 K.len, err := 0 }) ∨
    (requestOfCode k = none ∧ encodeFrame p k s = { s with err := 3 }) := by
  cases h : requestOfCode k with
  | none => exact .inr ⟨rfl, encodeFrame_of_none p s h⟩
  | some K =>
    obtain rfl := (requestOfCode_eq_some_iff k K).mp h
    exact .inl ⟨K, rfl, encodeFrame_request p K s⟩

theorem txlen_toNat (k : RequestKind) : (BitVec.ofNat 6 k.len).toNat = k.len := by
  cases k <;> rfl

/-! ## DECODE -/

theorem checkReply_reply (v : CrcVariant) (K : ReplyKind) (n : BitVec 6) (ovf : Bool) (B : Buffer) :
    checkReply v (replyCode K) n ovf B =
      if ovf = true ∨ n.toNat ≠ K.len then .lengthMismatch
      else if crc8 v (bufPrefix B (K.len - 1)) ≠ bufByte B (K.len - 1) then .checksumMismatch
      else .none := by
  rw [checkReply, replyOfCode_replyCode]

theorem checkReply_of_none (v : CrcVariant) {k : BitVec 4} (n : BitVec 6) (ovf : Bool) (B : Buffer)
    (h : replyOfCode k = none) : checkReply v k n ovf B = .badKind := by
  rw [checkReply, h]

theorem decodeReply_badKind (v : CrcVariant) {k : BitVec 4} (s : State) (h : replyOfCode k = none) :
    decodeReply v k s = { s with recValid := false, recKind := 0, err := 3 } := by
  rw [decodeReply, checkReply_of_none v _ _ _ h]; rfl

theorem decodeReply_length (v : CrcVariant) (K : ReplyKind) {s : State} (h : s.rxovf = true ∨ s.rxlen.toNat ≠ K.len) :
    decodeReply v (replyCode K) s = { s with recValid := false, recKind := 0, err := 1 } := by
  rw [decodeReply, checkReply_reply, if_pos h]; rfl

theorem decodeReply_checksum (v : CrcVariant) (K : ReplyKind) {s : State} (ho : s.rxovf = false)
    (hl : s.rxlen.toNat = K.len) (hc : crc8 v (bufPrefix s.rxbuf (K.len - 1)) ≠ bufByte s.rxbuf (K.len - 1)) :
    decodeReply v (replyCode K) s =
      { s with chkCalc := crc8 v (bufPrefix s.rxbuf (K.len - 1)), chkRecv := bufByte s.rxbuf (K.len - 1),
               recValid := false, recKind := 0, err := 2 } := by
  rw [decodeReply, checkReply_reply, if_neg (by simp [ho, hl]), if_pos hc]
  simp only [setChk, replyOfCode_replyCode]; rfl

theorem decodeReply_ok (v : CrcVariant) (K : ReplyKind) {s : State} (ho : s.rxovf = false)
    (hl : s.rxlen.toNat = K.len) (hc : crc8 v (bufPrefix s.rxbuf (K.len - 1)) = bufByte s.rxbuf (K.len - 1)) :
    decodeReply v (replyCode K) s =
      { s with chkCalc := crc8 v (bufPrefix s.rxbuf (K.len - 1)), chkRecv := bufByte s.rxbuf (K.len - 1),
               recValid := true, recKind := replyCode K, err := 0 } := by
  rw [decodeReply, checkReply_reply, if_neg (by simp [ho, hl]), if_neg (by simpa using hc)]
  simp only [setChk, replyOfCode_replyCode]; rfl

/-- The four ways `DECODE` ends. -/
theorem decodeReply_cases (v : CrcVariant) (k : BitVec 4) (s : State) :
    (replyOfCode k = none ∧ decodeReply v k s = { s with recValid := false, recKind := 0, err := 3 }) ∨
    ∃ K, k = replyCode K ∧
      (((s.rxovf = true ∨ s.rxlen.toNat ≠ K.len) ∧
          decodeReply v k s = { s with recValid := false, recKind := 0, err := 1 }) ∨
        (s.rxovf = false ∧ s.rxlen.toNat = K.len ∧
          ((crc8 v (bufPrefix s.rxbuf (K.len - 1)) ≠ bufByte s.rxbuf (K.len - 1) ∧
              decodeReply v k s =
                { s with chkCalc := crc8 v (bufPrefix s.rxbuf (K.len - 1)), chkRecv := bufByte s.rxbuf (K.len - 1),
                         recValid := false, recKind := 0, err := 2 }) ∨
            (crc8 v (bufPrefix s.rxbuf (K.len - 1)) = bufByte s.rxbuf (K.len - 1) ∧
              decodeReply v k s =
                { s with chkCalc := crc8 v (bufPrefix s.rxbuf (K.len - 1)), chkRecv := bufByte s.rxbuf (K.len - 1),
                         recValid := true, recKind := replyCode K, err := 0 })))) := by
  cases h : replyOfCode k with
  | none => exact .inl ⟨rfl, decodeReply_badKind v s h⟩
  | some K =>
    obtain rfl := (replyOfCode_eq_some_iff k K).mp h
    refine .inr ⟨K, rfl, ?_⟩
    by_cases hl : s.rxovf = true ∨ s.rxlen.toNat ≠ K.len
    · exact .inl ⟨hl, decodeReply_length v K hl⟩
    · obtain ⟨ho, hn⟩ : s.rxovf = false ∧ s.rxlen.toNat = K.len := by simpa using hl
      refine .inr ⟨ho, hn, ?_⟩
      by_cases hc : crc8 v (bufPrefix s.rxbuf (K.len - 1)) = bufByte s.rxbuf (K.len - 1)
      · exact .inr ⟨hc, decodeReply_ok v K ho hn hc⟩
      · exact .inl ⟨hc, decodeReply_checksum v K ho hn hc⟩

/-! ## FIELD -/

theorem selectField_noRecord (bits : RtcBits) (sel : Byte) {s : State} (h : s.recValid = false) :
    selectField bits sel s = { s with field := 0, err := 5 } := by
  rw [selectField, if_pos h]; rfl

theorem selectField_badField (bits : RtcBits) {sel : Byte} {s : State} (h : s.recValid = true)
    (hf : fieldValue bits s.recKind sel s.rxbuf = none) : selectField bits sel s = { s with field := 0, err := 6 } := by
  rw [selectField, if_neg (by simp [h]), hf]; rfl

theorem selectField_value (bits : RtcBits) {sel : Byte} {s : State} {x : Word} (h : s.recValid = true)
    (hf : fieldValue bits s.recKind sel s.rxbuf = some x) : selectField bits sel s = { s with field := x, err := 0 } := by
  rw [selectField, if_neg (by simp [h]), hf]; rfl

/-- The three ways `FIELD` ends. -/
theorem selectField_cases (bits : RtcBits) (sel : Byte) (s : State) :
    (s.recValid = false ∧ selectField bits sel s = { s with field := 0, err := 5 }) ∨
    (s.recValid = true ∧ fieldValue bits s.recKind sel s.rxbuf = none ∧
      selectField bits sel s = { s with field := 0, err := 6 }) ∨
    ∃ x, s.recValid = true ∧ fieldValue bits s.recKind sel s.rxbuf = some x ∧
      selectField bits sel s = { s with field := x, err := 0 } := by
  by_cases h : s.recValid = false
  · exact .inl ⟨h, selectField_noRecord bits sel h⟩
  · rw [Bool.not_eq_false] at h
    cases hf : fieldValue bits s.recKind sel s.rxbuf with
    | none => exact .inr (.inl ⟨h, rfl, selectField_badField bits h hf⟩)
    | some x => exact .inr (.inr ⟨x, h, rfl, selectField_value bits h hf⟩)

theorem fieldValue_reply (bits : RtcBits) (K : ReplyKind) (sel : Byte) (B : Buffer) :
    fieldValue bits (replyCode K) sel B = (fieldEntry bits K sel).map (entryValue B) := by
  rw [fieldValue, replyOfCode_replyCode]

end Sys2Proof.Laws
end

