-- ==== Sys2Proof/Laws/Decode.lean ====
section
/-! SUPPORT. The fields of a command word: that the encoder puts each operand where the field functions read it, and that a word
with `RSV` zero is put together again from its fields. -/

namespace Sys2Proof.Laws

open Sys2Proof

/-- The encoder of R70 and the field functions agree. -/
theorem commandWord_fields (op kind : BitVec 4) (imm : Byte) :
    rsvOf (commandWord op kind imm) = 0 ∧ opOf (commandWord op kind imm) = op ∧
    kindOf (commandWord op kind imm) = kind ∧ immOf (commandWord op kind imm) = imm := by
  refine ⟨?_, ?_, ?_, ?_⟩ <;>
  · apply BitVec.eq_of_getLsbD_eq
    intro i hi
    simp only [rsvOf, opOf, kindOf, immOf, commandWord, BitVec.getLsbD_extractLsb', BitVec.getLsbD_or,
      BitVec.getLsbD_shiftLeft, BitVec.getLsbD_setWidth]
    interval_cases i <;> simp

@[simp] theorem rsvOf_commandWord (op kind : BitVec 4) (imm : Byte) : rsvOf (commandWord op kind imm) = 0 :=
  (commandWord_fields op kind imm).1

@[simp] theorem opOf_commandWord (op kind : BitVec 4) (imm : Byte) : opOf (commandWord op kind imm) = op :=
  (commandWord_fields op kind imm).2.1

@[simp] theorem kindOf_commandWord (op kind : BitVec 4) (imm : Byte) : kindOf (commandWord op kind imm) = kind :=
  (commandWord_fields op kind imm).2.2.1

@[simp] theorem immOf_commandWord (op kind : BitVec 4) (imm : Byte) : immOf (commandWord op kind imm) = imm :=
  (commandWord_fields op kind imm).2.2.2

/-- A word whose `RSV` is zero is the word of its fields. -/
theorem commandWord_of_fields {w : Word} (h : rsvOf w = 0) : commandWord (opOf w) (kindOf w) (immOf w) = w := by
  have high : ∀ j, j < 16 → w.getLsbD (16 + j) = false := fun j hj => by
    have := congrArg (fun x => x.getLsbD j) h
    simpa [rsvOf, hj] using this
  apply BitVec.eq_of_getLsbD_eq
  intro i hi
  by_cases hlow : i < 16
  · simp only [opOf, kindOf, immOf, commandWord, BitVec.getLsbD_extractLsb', BitVec.getLsbD_or,
      BitVec.getLsbD_shiftLeft, BitVec.getLsbD_setWidth]
    interval_cases i <;> simp
  · obtain ⟨j, rfl⟩ : ∃ j, i = 16 + j := ⟨i - 16, by omega⟩
    rw [high j (by omega)]
    simp [opOf, kindOf, immOf, commandWord, show ¬ 16 + j < 8 by omega, show ¬ 16 + j - 8 < 4 by omega,
      show ¬ 16 + j - 12 < 4 by omega]

/-- The values of `OP`, one by one up to the reserved ones. -/
theorem op_cases (o : BitVec 4) :
    o = 0 ∨ o = 1 ∨ o = 2 ∨ o = 3 ∨ o = 4 ∨ o = 5 ∨ o = 6 ∨ o = 7 ∨ 8 ≤ o.toNat := by
  revert o; decide

/-- The formula of R120, in the words of the field functions. -/
theorem legalWord_fields (w : Word) :
    legalWord w = (rsvOf w == 0 && decide ((opOf w).toNat ≤ 7) && (kindOf w == 0 || opOf w == 5 || opOf w == 6)
      && (immOf w == 0 || opOf w == 2 || opOf w == 4 || opOf w == 7)) := rfl

end Sys2Proof.Laws
end

