-- ==== Sys2Proof/Laws/PerInstr.lean ====
section
/-! SUPPORT. One lemma per constructor of Instr for each family of LAWS.json. `EncodeLegal`: the word of a command is a legal word
by the formula of 41_frame_codec.md R120. -/

namespace Sys2Proof.Laws.EncodeLegal

open Sys2Proof

/-- The word of the command meets the formula `legal` of R120. -/
def Statement (i : Instr) : Prop := legalWord (encode i) = true

theorem nop : Statement .nop := rfl
theorem crcInit : Statement .crcInit := rfl
theorem crcByte (b : Byte) : Statement (.crcByte b) := by simp [Statement, encode, legalWord_fields]
theorem rxClear : Statement .rxClear := rfl
theorem rxPush (b : Byte) : Statement (.rxPush b) := by simp [Statement, encode, legalWord_fields]
theorem encode (kind : BitVec 4) : Statement (.encode kind) := by simp [Statement, Sys2Proof.encode, legalWord_fields]
theorem decode (kind : BitVec 4) : Statement (.decode kind) := by simp [Statement, Sys2Proof.encode, legalWord_fields]
theorem field (sel : Byte) : Statement (.field sel) := by simp [Statement, Sys2Proof.encode, legalWord_fields]

end Sys2Proof.Laws.EncodeLegal
end

