-- ==== Sys2Proof/Laws/Run.lean ====
section
/-! SUPPORT. Running commands one after the other, and serving host events: one lemma per command, per event and per shape of a
command list. -/

namespace Sys2Proof.Laws

open Sys2Proof.Machine

/-! ## One command -/

theorem exec_nop (s : State) : exec .nop s = .next s := rfl
theorem exec_crcInit (s : State) : exec .crcInit s = .next (crcInit Config.params.crc s) := rfl
theorem exec_crcByte (b : Byte) (s : State) : exec (.crcByte b) s = .next (crcByte Config.params.crc b s) := rfl
theorem exec_rxClear (s : State) : exec .rxClear s = .next (rxClear s) := rfl
theorem exec_rxPush (b : Byte) (s : State) : exec (.rxPush b) s = .next (rxPush b s) := rfl
theorem exec_encode (k : BitVec 4) (s : State) : exec (.encode k) s = .next (encodeFrame Config.params k s) := rfl
theorem exec_decode (k : BitVec 4) (s : State) : exec (.decode k) s = .next (decodeReply Config.params.crc k s) := rfl
theorem exec_field (sel : Byte) (s : State) : exec (.field sel) s = .next (selectField Config.params.rtcBits sel s) := rfl

/-! ## Several commands -/

@[simp] theorem runCommands_nil (s : State) : runCommands [] s = .next s := rfl

@[simp] theorem runCommands_cons (i : Instr) (is : List Instr) (s : State) :
    runCommands (i :: is) s = andThen (exec i s) (runCommands is) := rfl

theorem andThen_assoc {σ τ υ φ ρ : Type} (o : Host.Outcome σ φ ρ) (f : σ → Host.Outcome τ φ ρ)
    (g : τ → Host.Outcome υ φ ρ) : andThen (andThen o f) g = andThen o fun s => andThen (f s) g := by
  cases o <;> rfl

theorem runCommands_append (is js : List Instr) (s : State) :
    runCommands (is ++ js) s = andThen (runCommands is s) (runCommands js) := by
  induction is generalizing s with
  | nil => rfl
  | cons i is ih =>
    simp only [List.cons_append, runCommands_cons, andThen_assoc]
    cases exec i s with
    | next t => exact ih t
    | fault r => rfl
    | refused r => rfl

/-! ## Pushing a reply -/

/-- The state after pushing the bytes of `B`, in order. -/
def pushAll (B : List Byte) (s : State) : State := B.foldl (fun t b => rxPush b t) s

@[simp] theorem pushAll_nil (s : State) : pushAll [] s = s := rfl

@[simp] theorem pushAll_cons (b : Byte) (B : List Byte) (s : State) : pushAll (b :: B) s = pushAll B (rxPush b s) := rfl

theorem runCommands_pushes (B : List Byte) (s : State) : runCommands (B.map .rxPush) s = .next (pushAll B s) := by
  induction B generalizing s with
  | nil => rfl
  | cons b B ih => simpa [exec_rxPush] using ih (rxPush b s)

/-- What a push does to the reply side, whether or not there is room. -/
theorem rxPush_reply (b : Byte) {s : State} (h : s.rxlen.toNat ≤ 37) :
    (rxPush b s).rxlen.toNat = min (s.rxlen.toNat + 1) 37 ∧
    (rxPush b s).rxovf = (s.rxovf || decide (37 < s.rxlen.toNat + 1)) ∧
    ∀ i, bufByte (rxPush b s).rxbuf i = if i = s.rxlen.toNat ∧ i < 37 then b else bufByte s.rxbuf i := by
  by_cases hl : s.rxlen.toNat < 37
  · rw [rxPush_of_lt b hl]
    refine ⟨?_, ?_, fun i => ?_⟩
    · show (s.rxlen + 1).toNat = _
      rw [BitVec.toNat_add]
      simp
      omega
    · simp; omega
    · show bufByte (bufSet _ _ _) i = _
      rw [bufByte_bufSet]
      by_cases hi : i = s.rxlen.toNat
      · simp [hi]
      · simp [hi]
  · have h37 : s.rxlen.toNat = 37 := by omega
    rw [rxPush_of_full b hl]
    refine ⟨?_, ?_, fun i => ?_⟩
    · show s.rxlen.toNat = _
      omega
    · simp; omega
    · rw [if_neg (by omega)]

/-- What pushing a whole reply leaves: the length saturates, the overflow is recorded, the bytes stand in push order behind what
was there. -/
theorem pushAll_reply (B : List Byte) {s : State} (h : s.rxlen.toNat ≤ 37) :
    (pushAll B s).rxlen.toNat = min (s.rxlen.toNat + B.length) 37 ∧
    (pushAll B s).rxovf = (s.rxovf || decide (37 < s.rxlen.toNat + B.length)) ∧
    ∀ i, bufByte (pushAll B s).rxbuf i =
      if s.rxlen.toNat ≤ i ∧ i < s.rxlen.toNat + B.length ∧ i < 37 then B.getD (i - s.rxlen.toNat) 0
      else bufByte s.rxbuf i := by
  induction B generalizing s with
  | nil =>
    refine ⟨by simp; omega, ?_, fun i => ?_⟩
    · simp; omega
    · rw [if_neg (by simp; omega)]; rfl
  | cons b B ih =>
    obtain ⟨hlen, hovf, hbytes⟩ := rxPush_reply b h
    obtain ⟨ihlen, ihovf, ihbytes⟩ := ih (s := rxPush b s) (by omega)
    refine ⟨?_, ?_, fun i => ?_⟩
    · rw [pushAll_cons, ihlen, hlen, List.length_cons]; omega
    · rw [pushAll_cons, ihovf, hovf, hlen, List.length_cons, Bool.or_assoc]
      congr 1
      by_cases h1 : 37 < s.rxlen.toNat + 1
      · simp [h1]; omega
      · simp [h1]; omega
    · rw [pushAll_cons, ihbytes i, hbytes i, hlen, List.length_cons]
      by_cases hi : i = s.rxlen.toNat
      · subst hi
        by_cases hlt : s.rxlen.toNat < 37
        · rw [if_neg (by omega), if_pos ⟨rfl, hlt⟩, if_pos (by omega)]
          simp
        · rw [if_neg (by omega), if_neg (by omega), if_neg (by omega)]
      · rw [if_neg (c := i = s.rxlen.toNat ∧ i < 37) (by omega)]
        by_cases hin : s.rxlen.toNat ≤ i ∧ i < s.rxlen.toNat + (B.length + 1) ∧ i < 37
        · rw [if_pos (by omega), if_pos hin]
          obtain ⟨j, rfl⟩ : ∃ j, i = s.rxlen.toNat + 1 + j := ⟨i - s.rxlen.toNat - 1, by omega⟩
          rw [show min (s.rxlen.toNat + 1) 37 = s.rxlen.toNat + 1 from by omega,
            show s.rxlen.toNat + 1 + j - (s.rxlen.toNat + 1) = j from by omega,
            show s.rxlen.toNat + 1 + j - s.rxlen.toNat = j + 1 from by omega, List.getD_cons_succ]
        · rw [if_neg (by omega), if_neg hin]

/-- A push leaves the other side of the block and the host's side alone. -/
theorem rxPush_frame (b : Byte) (s : State) :
    rxPush b s = { s with rxbuf := (rxPush b s).rxbuf, rxlen := (rxPush b s).rxlen, rxovf := (rxPush b s).rxovf,
                          recValid := false, recKind := 0, err := (rxPush b s).err } := by
  by_cases h : s.rxlen.toNat < 37
  · rw [rxPush_of_lt b h]
  · rw [rxPush_of_full b h]

theorem pushAll_frame (B : List Byte) (s : State) :
    ∃ rxbuf rxlen rxovf recValid recKind err,
      pushAll B s = { s with rxbuf := rxbuf, rxlen := rxlen, rxovf := rxovf, recValid := recValid, recKind := recKind,
                             err := err } := by
  induction B generalizing s with
  | nil => exact ⟨_, _, _, _, _, _, rfl⟩
  | cons b B ih =>
    obtain ⟨x1, x2, x3, x4, x5, x6, e⟩ := ih (rxPush b s)
    refine ⟨x1, x2, x3, x4, x5, x6, ?_⟩
    rw [pushAll_cons, e, rxPush_frame]

/-- The state after `RX_LOAD B`. -/
theorem runCommands_rxLoad (B : List Byte) (s : State) :
    runCommands (rxLoadCommands B) s = .next (pushAll B (rxClear s)) := by
  rw [rxLoadCommands, runCommands_cons, exec_rxClear, andThen_next, runCommands_pushes]

/-- What `RX_LOAD B` leaves on the reply side, whatever was there. -/
theorem rxLoad_reply (B : List Byte) (s : State) :
    (pushAll B (rxClear s)).rxlen.toNat = min B.length 37 ∧
    (pushAll B (rxClear s)).rxovf = decide (37 < B.length) ∧
    (pushAll B (rxClear s)).rxbuf = bufOf B := by
  obtain ⟨h1, h2, h3⟩ := pushAll_reply B (s := rxClear s) (by rw [rxClear_eq]; simp)
  have hz : (rxClear s).rxlen.toNat = 0 := rfl
  have ho : (rxClear s).rxovf = false := rfl
  have hb : (rxClear s).rxbuf = Vector.replicate 37 0 := rfl
  refine ⟨by rw [h1, hz, Nat.zero_add], by rw [h2, hz, ho, Nat.zero_add, Bool.false_or], buffer_ext fun i => ?_⟩
  rw [h3 i, hz, hb, bufByte_bufOf, bufByte_replicate, Nat.zero_add, Nat.sub_zero]
  by_cases hi : i < 37
  · by_cases hl : i < B.length
    · rw [if_pos ⟨Nat.zero_le _, hl, hi⟩, if_pos hi]
    · rw [if_neg (by omega), if_pos hi, List.getD_eq_getElem?_getD, List.getElem?_eq_none (by omega)]; rfl
  · rw [if_neg (by omega), if_neg hi]

/-! ## One host event -/

theorem step_idle {s : State} (h : s.pending = []) : step s = .next s := by
  rw [step, serveNext, h]

theorem step_event {s : State} {e : HostEvent} {rest : List HostEvent} (h : s.pending = e :: rest) :
    step s = serveEvent e { s with pending := rest } := by
  rw [step, serveNext, h]

end Sys2Proof.Laws
end

