-- ==== Sys2Proof/Laws/Port.lean ====
section
/-! SUPPORT. The window and the port: what each byte of the window depends on, and everything a command, a word and one step can
do to the state, so that proofs over the host's accesses never unfold `serveEvent`. -/

namespace Sys2Proof.Laws

open Sys2Proof.Machine

/-! ## Bytes of words -/

@[simp] theorem wordOfBytes_byteOf (x : Word) : wordOfBytes (byteOf x 0) (byteOf x 1) (byteOf x 2) (byteOf x 3) = x := by
  apply BitVec.eq_of_toNat_eq
  simp [wordOfBytes, byteOf, Nat.shiftRight_eq_div_pow]
  have := x.isLt
  omega

theorem wordOfBytes_toNat (a b c d : Byte) :
    (wordOfBytes a b c d).toNat = a.toNat + b.toNat * 2 ^ 8 + c.toNat * 2 ^ 16 + d.toNat * 2 ^ 24 := by
  have ha : a.toNat < 256 := a.isLt
  have hb : b.toNat < 256 := b.isLt
  have hc : c.toNat < 256 := c.isLt
  have hd : d.toNat < 256 := d.isLt
  rw [wordOfBytes, BitVec.toNat_ofNat, Nat.mod_eq_of_lt]
  norm_num; omega

/-! ## The window -/

/-- A 4-byte read of a register's offset shows the register. -/
theorem windowWord_reg (v : CrcVariant) (s : State) (r : Reg) : windowWord v s (regOffset r) = regWord v s r := by
  cases r <;> exact wordOfBytes_byteOf _

/-- A byte of the request-frame window. -/
theorem windowByte_tx (v : CrcVariant) (s : State) {m : Nat} (h : m < 64) :
    windowByte v s (BitVec.ofNat 8 (0x40 + m)) = bufByte s.txbuf m := by
  have : (BitVec.ofNat 8 (0x40 + m)).toNat = 64 + m := by simp; omega
  unfold windowByte
  rw [this, if_neg (by omega), if_pos (by omega), Nat.add_sub_cancel_left]

/-- A byte of the reply-frame window. -/
theorem windowByte_rx (v : CrcVariant) (s : State) {m : Nat} (h : m < 128) :
    windowByte v s (BitVec.ofNat 8 (0x80 + m)) = bufByte s.rxbuf m := by
  have : (BitVec.ofNat 8 (0x80 + m)).toNat = 128 + m := by simp; omega
  unfold windowByte
  rw [this, if_neg (by omega), if_neg (by omega), Nat.add_sub_cancel_left]

/-! ## Every command answers, and does not look at the port -/

theorem exec_total (i : Instr) (s : State) : ∃ t, exec i s = .next t := by cases i <;> exact ⟨_, rfl⟩

/-- A command's effect does not depend on the host's side of the port and leaves it alone. -/
theorem exec_port (i : Instr) (s : State) (p : List HostEvent) (r : List Response) :
    exec i { s with pending := p, responses := r } =
      andThen (exec i s) fun t => .next { t with pending := p, responses := r } := by
  cases i with
  | nop => rfl
  | crcInit => rfl
  | crcByte b => rfl
  | rxClear => rfl
  | rxPush b =>
    rw [exec_rxPush, exec_rxPush, andThen_next]
    by_cases h : s.rxlen.toNat < 37
    · rw [rxPush_of_lt b h, rxPush_of_lt b (s := { s with pending := p, responses := r }) h]
    · rw [rxPush_of_full b h, rxPush_of_full b (s := { s with pending := p, responses := r }) h]
  | encode k =>
    rw [exec_encode, exec_encode, andThen_next]
    rcases encodeFrame_cases Config.params k s with ⟨K, rfl, _⟩ | ⟨h0, _⟩
    · rw [encodeFrame_request, encodeFrame_request]
    · rw [encodeFrame_of_none _ _ h0, encodeFrame_of_none _ _ h0]
  | decode k =>
    rw [exec_decode, exec_decode, andThen_next]
    unfold decodeReply setChk
    cases replyOfCode k <;> cases checkReply Config.params.crc k s.rxlen s.rxovf s.rxbuf <;> rfl
  | field sel =>
    rw [exec_field, exec_field, andThen_next]
    unfold selectField
    cases s.recValid <;> cases fieldValue Config.params.rtcBits s.recKind sel s.rxbuf <;> rfl

/-! ## One step -/

/-- Everything one step can leave of the block: what it was, its reset value, the effect of one command, or the effect of an
illegal word, each with some host side. -/
theorem step_cases {s t : State} (h : step s = .next t) :
    (∃ p r, t = { s with pending := p, responses := r }) ∨
    (∃ p r, t = { State.reset with pending := p, responses := r }) ∨
    (∃ i u p r, exec i s = .next u ∧ t = { u with pending := p, responses := r }) ∨
    (∃ p r, t = { illegalCommand s with pending := p, responses := r }) := by
  cases hp : s.pending with
  | nil =>
    rw [step_idle hp] at h
    injection h with h
    exact .inl ⟨_, _, h.symm⟩
  | cons e rest =>
    rw [step_event hp] at h
    cases e with
    | reset =>
      simp only [serveEvent] at h
      injection h with h
      exact .inr (.inl ⟨_, _, h.symm⟩)
    | read off n =>
      simp only [serveEvent] at h
      split at h <;> (injection h with h; exact .inl ⟨_, _, h.symm⟩)
    | write off n w =>
      simp only [serveEvent, busWrite] at h
      by_cases hn : n = 4 ∧ off.toNat % 4 = 0
      swap
      · rw [if_neg hn] at h
        simp only at h
        injection h with h
        exact .inl ⟨_, _, h.symm⟩
      rw [if_pos hn] at h
      by_cases ho : off = regOffset .cmd
      swap
      · rw [if_neg ho] at h
        simp only [andThen_next] at h
        injection h with h
        exact .inl ⟨_, _, h.symm⟩
      rw [if_pos ho] at h
      simp only [runCommand] at h
      cases hd : decode w with
      | error e =>
        rw [hd] at h
        simp only [andThen_next] at h
        injection h with h
        exact .inr (.inr (.inr ⟨_, _, h.symm⟩))
      | ok i =>
        rw [hd] at h
        simp only at h
        obtain ⟨u, hu⟩ := exec_total i s
        have hport := exec_port i s rest s.responses
        rw [show ({ s with pending := rest } : State) = { s with pending := rest, responses := s.responses } from rfl,
          hport, hu] at h
        simp only [andThen_next] at h
        injection h with h
        exact .inr (.inr (.inl ⟨i, u, _, _, hu, h.symm⟩))

end Sys2Proof.Laws
end

