-- ==== Sys2Proof/Tests/Slice0.lean ====
section
/-! SUPPORT. The model's own tests. Expected values come from spec/95_test_vectors.md (section named in each comment) or are written
out by hand from the encoding of 30_encoding.md R70; the second half gives, for each statement with hypotheses, values that meet
them. -/

namespace Sys2Proof.Tests

open Sys2Proof Sys2Proof.Machine Sys2Proof.Stated

/-! ## Helpers -/

/-- Set A's CRC constants (section 1.1). -/
def crcA : CrcVariant := (illustrative .a).crc

/-- The state right after reset under set A. -/
def base : State := State.resetWith crcA

/-- A reply buffer that holds `B`, and its count. -/
def loaded (B : List Byte) (n : BitVec 6) : State := { base with rxbuf := bufOf B, rxlen := n }

/-- The state of section 3.7: record HK valid, `acc = 0x7E`. -/
def busy : State := { decodedHK with acc := 0x7E }

/-- The record of the frame V (section 3.6): description "KubOS-SUP v1.2.3" and three zero bytes. -/
def versionScenario : VersionRecord :=
  { dummy := 0x00, status := 0x00, subsystem := 0x01, major := 0x01, minor := 0x02, patch := 0x03, build := 0xDEADBEEF,
    serial := 0x1234,
    description := #v[0x4B, 0x75, 0x62, 0x4F, 0x53, 0x2D, 0x53, 0x55, 0x50, 0x20, 0x76, 0x31, 0x2E, 0x32, 0x2E, 0x33, 0x00, 0x00,
      0x00],
    clock := 0x0C, buildKind := 0x01 }

/-- The next state of an outcome, if it is one. -/
def nextOf {φ ρ : Type} : Host.Outcome State φ ρ → Option State
  | .next t => some t
  | .fault _ => none
  | .refused _ => none

/-! ## WellFormed: each check refuses an ill-formed word or access -/

theorem test_wf_rsv : legalWord 0x00010000 = false := by decide
theorem test_wf_op : legalWord 0x00008000 = false ∧ legalWord 0x0000F000 = false := by decide
theorem test_wf_kind : legalWord 0x00002100 = false ∧ legalWord 0x00007100 = false := by decide
theorem test_wf_imm : legalWord 0x00005401 = false ∧ legalWord 0x00003001 = false := by decide
theorem test_wf_read : admittedRead 0x04 2 = false ∧ admittedRead 0x02 4 = false ∧ admittedRead 0x65 1 = true := by decide
theorem test_wf_write : admittedWrite 0x00 1 = false ∧ admittedWrite 0x06 4 = false ∧ admittedWrite 0x40 4 = true := by
  decide

/-! ## Decode: words written out bit by bit as RSV ++ OP ++ KIND ++ IMM8 (R70, R72) -/

theorem test_decode_nop : decode (0#16 ++ 0b0000#4 ++ 0b0000#4 ++ 0b00000000#8) = .ok .nop := by decide
theorem test_decode_crcInit : decode (0#16 ++ 0b0001#4 ++ 0b0000#4 ++ 0b00000000#8) = .ok .crcInit := by decide
theorem test_decode_crcByte : decode (0#16 ++ 0b0010#4 ++ 0b0000#4 ++ 0b00110001#8) = .ok (.crcByte 0x31) := by decide
theorem test_decode_rxClear : decode (0#16 ++ 0b0011#4 ++ 0b0000#4 ++ 0b00000000#8) = .ok .rxClear := by decide
theorem test_decode_rxPush : decode (0#16 ++ 0b0100#4 ++ 0b0000#4 ++ 0b11101000#8) = .ok (.rxPush 0xE8) := by decide
theorem test_decode_encode : decode (0#16 ++ 0b0101#4 ++ 0b0100#4 ++ 0b00000000#8) = .ok (.encode 4) := by decide
theorem test_decode_decode : decode (0#16 ++ 0b0110#4 ++ 0b0101#4 ++ 0b00000000#8) = .ok (.decode 5) := by decide
theorem test_decode_field : decode (0#16 ++ 0b0111#4 ++ 0b0000#4 ++ 0b00011100#8) = .ok (.field 28) := by decide

/-- Section 3.7: every illegal word of the table is refused. -/
theorem test_decode_illegal :
    ([0x00008000, 0x0000F000, 0x00010000, 0xFFFFFFFF, 0x00000001, 0x00000100, 0x00001001, 0x00001100, 0x00002100, 0x00003001,
      0x00004100, 0x00005401, 0x00006401, 0x00007100].map fun w => (decode w).toOption) = List.replicate 14 none := by
  decide

theorem test_assembly : assembly (.rxPush 232) = "RX_PUSH 232" ∧ assembly .nop = "NOP" := by decide +kernel
theorem test_tableWord : decodeTableWord 32 0x00006400 = some (.decode 4) ∧ decodeTableWord 16 0x1 = none := by decide

/-! ## The CRC function -/

/-- Section 1.1: the check values of sets A to D. -/
theorem test_crc8_check :
    ([.a, .b, .c, .d].map fun k => crc8 (illustrative k).crc [0x31, 0x32, 0x33, 0x34, 0x35, 0x36, 0x37, 0x38, 0x39]) =
      [0xF4, 0xA1, 0xA1, 0x4B] := by decide +kernel

/-- Section 3.1: the empty string and a single bit at either end. -/
theorem test_crc8_short :
    ([.a, .b, .c, .d].map fun k => (crc8 (illustrative k).crc [], crc8 (illustrative k).crc [0x80])) =
      [(0x00, 0x89), (0x00, 0x8C), (0x55, 0xDC), (0x00, 0x1D)] := by decide +kernel

/-- Section 3.1: one update, with and without input reflection. -/
theorem test_crcUpdate :
    ([.a, .b, .c, .d].map fun k => (crcUpdate (illustrative k).crc 0x00 0x80, crcUpdate (illustrative k).crc 0x80 0x00)) =
      [(0x89, 0x89), (0x31, 0x7A), (0x89, 0x89), (0x26, 0x26)] := by decide +kernel

/-- Section 2.2: the frame HK is the scenario's record, sealed, and its checksum under each set. -/
theorem test_frameHK :
    sealFrame crcA (housekeepingBody scenarioRecord) = frameHK ∧
    ([.a, .b, .c, .d].map fun k => crc8 (illustrative k).crc (housekeepingBody scenarioRecord)) =
      [0xA4, 0x54, 0xF1, 0xF9] := by decide +kernel

/-- Section 3.6: the frame V is its record, sealed, and its checksum under each set. -/
theorem test_frameV :
    sealFrame crcA (versionBody versionScenario) = frameV ∧
    ([.a, .b, .c, .d].map fun k => crc8 (illustrative k).crc (frameV.take 33)) = [0xF3, 0x35, 0xA6, 0x39] := by
  decide +kernel

/-! ## The commands -/

theorem test_nop (s : State) : nextOf (exec .nop { s with err := 7 }) = some { s with err := 7 } := rfl

/-- Section 3.2: `CRC_INIT` under set D leaves `acc = FF` and `CRC` reads 0. -/
theorem test_crcInit :
    (crcInit (illustrative .d).crc base).acc = 0xFF ∧
    windowWord (illustrative .d).crc (crcInit (illustrative .d).crc base) 0x08 = 0 := by decide +kernel

/-- Section 3.2: `CRC_BYTE FF` from reset, set A; `CRC8 31 32 33` under set B reads 0x95 from `acc = A9`. -/
theorem test_crcByte :
    (crcByte crcA 0xFF base).acc = 0xF3 ∧
    (let v := (illustrative .b).crc
     let t := crcByte v 0x33 (crcByte v 0x32 (crcByte v 0x31 (crcInit v base)))
     (t.acc, windowWord v t 0x08) = (0xA9, 0x95)) := by decide +kernel

/-- Section 3.4: `RX_CLEAR` after a decoded record. -/
theorem test_rxClear :
    let t := rxClear decodedHK
    (t.rxlen, statusWord t, windowWord crcA t 0x80, windowWord crcA t 0xA4) = (0, 0, 0, 0) := by decide +kernel

/-- Section 3.4: a push into the full buffer of a decoded record, and the 37th push. -/
theorem test_rxPush_overflow :
    let t := rxPush 0 decodedHK
    (t.rxlen, statusWord t, t.rxbuf) = (37, 0x024, decodedHK.rxbuf) := by decide +kernel
theorem test_rxPush_last :
    let t := rxPush 0xA4 (loaded (frameHK.take 36) 36)
    (t.rxlen, statusWord t, t.rxbuf) = (37, 0, loadedHK.rxbuf) := by decide +kernel

/-- Section 3.3: `ENCODE 1; ENCODE 0`, and `ENCODE 4; ENCODE 2` with its zero tail, set A. -/
theorem test_encode_words :
    let t := encodeFrame (illustrative .a) 0 (encodeFrame (illustrative .a) 1 base)
    let u := encodeFrame (illustrative .a) 2 (encodeFrame (illustrative .a) 4 base)
    (t.txlen, windowWord crcA t 0x40, windowWord crcA t 0x44) = (10, 0x10, 0) ∧
    (u.txlen, windowWord crcA u 0x40, windowWord crcA u 0x44) = (3, 0x00F90030, 0) := by decide +kernel

/-- Section 3.3: `ENCODE 5` is BAD_KIND and leaves the buffer. -/
theorem test_encode_badKind : encodeFrame (illustrative .a) 5 decodedHK = { decodedHK with err := 3 } := by decide +kernel

/-- Section 3.5: STATUS and CHK after `DECODE` of HK, of V, of HK with a corrupted checksum, of 36 bytes, of another kind. -/
theorem test_decode_ok :
    let t := decodeReply crcA 3 (loaded frameV 34)
    (statusWord decodedHK, windowWord crcA decodedHK 0x18) = (0x410, 0xA4A4) ∧
    (statusWord t, windowWord crcA t 0x18) = (0x310, 0xF3F3) := by decide +kernel
theorem test_decode_fails :
    let bad := decodeReply crcA 4 (loaded (frameHK.take 36 ++ [0x5B]) 37)
    (statusWord bad, windowWord crcA bad 0x18) = (0x002, 0x5BA4) ∧
    statusWord (decodeReply crcA 4 (loaded (frameHK.take 36) 36)) = 0x001 ∧
    statusWord (decodeReply crcA 3 loadedHK) = 0x001 ∧
    (let t := decodeReply crcA 1 decodedHK
     (statusWord t, windowWord crcA t 0x18) = (0x003, 0xA4A4)) := by decide +kernel

/-- Section 2.2: every selector of HK. -/
theorem test_field_housekeeping :
    ([0, 1, 2, 3, 4, 5, 6, 8, 17, 24, 25, 26, 27, 28, 7, 18, 29, 255].map fun s => ((readHK s).field, (readHK s).err)) =
      [(0, 0), (5, 0), (1000, 0), (500, 0), (2, 0), (1, 0), (0xA4, 0), (0, 0), (9, 0), (1, 0), (0, 0), (1, 0), (0, 0), (0, 0),
       (0, 6), (0, 6), (0, 6), (0, 6)] := by decide +kernel

/-- Section 3.6: selectors of V. -/
theorem test_field_version :
    ([1, 3, 5, 6, 7, 8, 9, 10, 15, 16, 31, 34, 35].map fun s =>
      let t := selectField (illustrative .a).rtcBits s (decodeReply crcA 3 (loaded frameV 34))
      (t.field, t.err)) =
      [(1, 0), (2, 0), (0xDEADBEEF, 0), (0x1234, 0), (0x0C, 0), (1, 0), (0xF3, 0), (0, 6), (0, 6), (0x4B, 0), (0x33, 0), (0, 0),
       (0, 6)] := by decide +kernel

/-! ## The port and the step -/

/-- Section 3.7: an illegal word leaves `STATUS = 0x417` and everything else. -/
theorem test_illegal_word :
    nextOf (runCommand 0x00007100 busy) = some { busy with err := 7 } ∧ statusWord { busy with err := 7 } = 0x417 := by
  decide +kernel

/-- Section 3.8 and program P3: reads of the window. -/
theorem test_window :
    windowByte crcA decodedHK 0x05 = 0x04 ∧ windowWord crcA decodedHK 0x80 = 0xE8050000 ∧
    windowWord crcA decodedHK 0xA0 = 0x01000900 ∧ windowWord crcA decodedHK 0xA4 = 0x000000A4 ∧
    windowByte crcA decodedHK 0x82 = 0x05 ∧ windowByte crcA decodedHK 0x19 = 0xA4 ∧ windowWord crcA decodedHK 0x00 = 0 := by
  decide +kernel

/-- Section 3.8: refused accesses answer an error and change nothing; an aligned write elsewhere is ignored. -/
theorem test_refused :
    (nextOf (step { busy with pending := [.read 0x02 4] })).map State.responses = some [.busError 0x02] ∧
    (nextOf (step { busy with pending := [.write 0x00 1 0x1000] })).map State.responses = some [.busError 0x00] ∧
    nextOf (step { busy with pending := [.write 0x40 4 0x12345678] }) = some { busy with responses := [.written] } := by
  decide +kernel

/-- A word placed by `withFetchWord` is the command the next step runs. -/
theorem test_withFetchWord :
    nextOf (step (State.withFetchWord { base with pending := [.read 0 1] } 32 0x000040E8)) =
      some { rxPush 0xE8 base with pending := [.read 0 1], responses := [.written] } := by decide +kernel

/-- Program P2: `ENCODE 1` hands out 20 00 AE under set A. -/
theorem test_request : txRead crcA (encodeFrame (illustrative .a) 1 base) 3 = [0x20, 0x00, 0xAE] := by decide +kernel

/-! ## Witnesses: values that meet the hypotheses of the statements, clause by clause -/

theorem test_witness_EncodingADecodedWordGivesItBack : decode 0x000020FF = .ok (.crcByte 0xFF) := rfl

theorem test_witness_DecoderAgreesWithTheOpcodeTable :
    decode 0x00006F00 = .ok (.decode 15) ∧ ⟨"DECODE", 0x00006000, 0xFFFFF0FF⟩ ∈ opcodeRows := by decide

theorem test_witness_ExecuteDispatchesOnTheWord :
    legalWord 0x00008000 = false ∧ legalWord 0x000070FF = true ∧ OP 0x000070FF ≠ 0 := by decide

theorem test_witness_IllegalWordsOnlySetTheirCode :
    (∀ r ∈ opcodeRows, r.matchesWord 0x00008000 = false) ∧ RSV 0x00010000 ≠ 0 ∧ 8 ≤ (OP 0x00008000).toNat ∧
    (KIND 0x00004100 ≠ 0 ∧ OP 0x00004100 ≠ 5 ∧ OP 0x00004100 ≠ 6) ∧
    (IMM8 0x00005401 ≠ 0 ∧ OP 0x00005401 ≠ 2 ∧ OP 0x00005401 ≠ 4 ∧ OP 0x00005401 ≠ 7) ∧ 5 ≤ (5 : BitVec 4).toNat ∧
    ((2 : BitVec 4) ≠ 3 ∧ (2 : BitVec 4) ≠ 4 ∧ (2 : BitVec 4) ≠ 5) := by decide

theorem test_witness_StepRunsTheDecodedCommand :
    ({ base with pending := [.write 0x00 4 0x00003000] } : State).pending = .write 0x00 4 0x00003000 :: [] ∧
    decode 0x00003000 = .ok .rxClear := by decide

theorem test_witness_CrcOutIsABijection : (7 : Nat) < 8 ∧ crcA.refout = false ∧ crcA.xorout = 0 := by decide

theorem test_witness_CrcIsAffine : ([1, 2] : List Byte).length = ([3, 4] : List Byte).length := by decide

theorem test_witness_CrcDetectsEverySingleBitFlip : crcA.poly ≠ 0 ∧ 36 < frameHK.length ∧ 7 < 8 := by decide

theorem test_witness_ZeroPolynomialDetectsNothing :
    ({ crcA with poly := 0 } : CrcVariant).poly = 0 ∧ ([0x01] : List Byte) ≠ [] := by decide

theorem test_witness_CrcResidueIsZero : crcA.refin = false ∧ crcA.refout = false ∧ crcA.xorout = 0 := by decide

/-- The illegal neighbours of each command: one word for each of KIND, IMM8 and RSV that is not zero where it must be. -/
theorem test_witness_CrcInitStartsTheAccumulator :
    (OP 0x00001100 = 1 ∧ KIND 0x00001100 ≠ 0) ∧ (OP 0x00001001 = 1 ∧ IMM8 0x00001001 ≠ 0) ∧
    (OP 0x00011000 = 1 ∧ RSV 0x00011000 ≠ 0) := by decide
theorem test_witness_CrcByteFeedsTheAccumulator :
    (OP 0x00002100 = 2 ∧ KIND 0x00002100 ≠ 0) ∧ (OP 0x00012000 = 2 ∧ RSV 0x00012000 ≠ 0) := by decide
theorem test_witness_NopChangesNothing : OP 0x00000001 = 0 ∧ (0x00000001 : Word) ≠ 0 := by decide

theorem test_witness_FrameCommandsDoNotDisturbTheCrc :
    (∀ i ∈ [Instr.encode 4, .rxClear, .rxPush 0, .decode 4, .field 2, .nop], ¬ IsCrcCommand i) ∧
    (∀ i, decode 0x00005400 = .ok i → ¬ IsCrcCommand i) := by
  constructor
  · simp [IsCrcCommand]
  · intro i h
    rw [show decode 0x00005400 = .ok (.encode 4) from rfl] at h
    injection h with h
    subst h
    simp [IsCrcCommand]

theorem test_witness_RequestImageIsTheTemplateWithItsChecksum :
    (illustrative .a).reqCrc .reset = true ∧ (illustrative .a).reqCrc .emergencyReset = false ∧
    1 < RequestKind.reset.len - 1 := by decide

theorem test_witness_CheckReplyTestsKindThenLengthThenChecksum :
    ((2 : BitVec 4) ≠ 3 ∧ (2 : BitVec 4) ≠ 4 ∧ (2 : BitVec 4) ≠ 5) ∧
    ((5 : BitVec 4), 3) ∈ [((3 : BitVec 4), 34), (4, 37), (5, 3)] := by decide

theorem test_witness_RxClearEmptiesTheReplyBuffer :
    (OP 0x00003100 = 3 ∧ KIND 0x00003100 ≠ 0) ∧ (OP 0x00003001 = 3 ∧ IMM8 0x00003001 ≠ 0) ∧
    (OP 0x00013000 = 3 ∧ RSV 0x00013000 ≠ 0) := by decide

theorem test_witness_RxPushAppendsOrOverflows :
    (OP 0x00004100 = 4 ∧ KIND 0x00004100 ≠ 0) ∧ (OP 0x00014000 = 4 ∧ RSV 0x00014000 ≠ 0) ∧
    (loaded frameHK 36).rxlen.toNat < 37 ∧ loadedHK.rxlen = 37 ∧
    ({ loadedHK with rxovf := true } : State).rxlen = 37 ∧ ({ loadedHK with rxovf := true } : State).rxovf = true ∧
    Instr.decode 4 ≠ .rxClear := by decide +kernel

theorem test_witness_EncodeBuildsTheRequestFrame :
    (OP 0x00005401 = 5 ∧ IMM8 0x00005401 ≠ 0) ∧ (OP 0x00015400 = 5 ∧ RSV 0x00015400 ≠ 0) ∧ 5 ≤ (5 : BitVec 4).toNat ∧
    5 ≤ (15 : BitVec 4).toNat := by decide

/-- A generic reply sealed with the machine's own checksum, and the same with its last byte wrong. -/
def sealedG : State := loaded (sealFrame V [0x00, 0x7F]) 3
def brokenG : State := loaded [0x00, 0x7F, crc8 V [0x00, 0x7F] ^^^ 1] 3

theorem test_witness_DecodeValidatesTheReply :
    (OP 0x00006401 = 6 ∧ IMM8 0x00006401 ≠ 0) ∧ (OP 0x00016400 = 6 ∧ RSV 0x00016400 ≠ 0) ∧
    ({ loadedHK with rxovf := true } : State).rxovf = true ∧ base.rxlen.toNat ≠ ReplyKind.generic.len ∧
    (sealedG.rxovf = false ∧ sealedG.rxlen.toNat = ReplyKind.generic.len ∧
      crc8 V (bufPrefix sealedG.rxbuf (ReplyKind.generic.len - 1)) = bufByte sealedG.rxbuf (ReplyKind.generic.len - 1)) ∧
    (brokenG.rxovf = false ∧ brokenG.rxlen.toNat = ReplyKind.generic.len ∧
      crc8 V (bufPrefix brokenG.rxbuf (ReplyKind.generic.len - 1)) ≠ bufByte brokenG.rxbuf (ReplyKind.generic.len - 1)) := by
  refine ⟨by decide, by decide, rfl, by decide, ⟨rfl, rfl, ?_⟩, ⟨rfl, rfl, ?_⟩⟩
  · rw [show bufPrefix sealedG.rxbuf (ReplyKind.generic.len - 1) = [0x00, 0x7F] from rfl]
    rfl
  · rw [show bufPrefix brokenG.rxbuf (ReplyKind.generic.len - 1) = [0x00, 0x7F] from rfl,
      show bufByte brokenG.rxbuf (ReplyKind.generic.len - 1) = crc8 V [0x00, 0x7F] ^^^ 1 from rfl]
    generalize crc8 V [0x00, 0x7F] = c
    revert c
    decide

theorem test_witness_FieldReadsTheValidatedRecord :
    (OP 0x00007100 = 7 ∧ KIND 0x00007100 ≠ 0) ∧ (OP 0x00017000 = 7 ∧ RSV 0x00017000 ≠ 0) ∧ base.recValid = false ∧
    (decodedHK.recValid = true ∧ fieldValue P.rtcBits decodedHK.recKind 7 decodedHK.rxbuf = none) ∧
    (decodedHK.recValid = true ∧ fieldValue P.rtcBits decodedHK.recKind 2 decodedHK.rxbuf = some 1000) := by
  refine ⟨by decide, by decide, by decide, ⟨by decide +kernel, ?_⟩, ⟨by decide +kernel, ?_⟩⟩
  · rw [show decodedHK.recKind = 4 from by decide +kernel]; rfl
  · rw [show decodedHK.recKind = 4 from by decide +kernel, show decodedHK.rxbuf = bufOf frameHK from by decide +kernel]
    rfl

/-- States that hold a record of each kind, and selectors at the edges of the gaps. -/
theorem test_witness_SelectorStatements :
    (({ base with recValid := true, recKind := 3 } : State).recValid = true ∧
      ({ base with recValid := true, recKind := 3 } : State).recKind = 3) ∧
    (decodedHK.recValid = true ∧ decodedHK.recKind = 4) ∧ (decodedG.recValid = true ∧ decodedG.recKind = 5) ∧
    (34, 30, 1) ∈ versionRows ∧ (17, 33, 2) ∈ housekeepingRows ∧ (28, P.rtcBits.pwrdn) ∈ flagRows P.rtcBits ∧
    (10 ≤ (10 : Byte).toNat ∧ (15 : Byte).toNat ≤ 15 ∧ 35 ≤ (35 : Byte).toNat) ∧
    ((7 : Byte).toNat = 7 ∧ 18 ≤ (18 : Byte).toNat ∧ (23 : Byte).toNat ≤ 23 ∧ 29 ≤ (29 : Byte).toNat) ∧
    2 ≤ (2 : Byte).toNat := by
  refine ⟨by decide, by decide +kernel, by decide +kernel, by decide, by decide, by simp [flagRows], by decide, by decide,
    by decide⟩

theorem test_witness_RegisterCommandsLeaveTheRest :
    IsCrcCommand .crcInit ∧ IsCrcCommand (.crcByte 0xFF) ∧ ((0x05 : Offset) ≠ 0x04 ∧ (0x05 : Offset) ≠ 0x08) ∧
    ((0x13 : Offset).toNat < 0x14 ∧ 0x17 < (0x18 : Offset).toNat) := by
  exact ⟨.inl rfl, .inr ⟨_, rfl⟩, by decide, by decide⟩

theorem test_witness_BufferCommandsLeaveTheRest :
    ¬ (base.rxlen.toNat < 37 ∧ (0x81 : Offset).toNat = 0x80 + base.rxlen.toNat) ∧
    (0x7F : Offset).toNat < 0x80 ∧ 0xA4 < (0xA5 : Offset).toNat ∧
    ((4 : BitVec 4).toNat < 5 ∧ (0x65 : Offset) ≠ 0x0C ∧ 0x64 < (0x65 : Offset).toNat) := by decide

/-- For each element, a command and a state in which it does change. -/
theorem test_witness_OnlyTheNamedCommandsChangeAnElement :
    (encodeFrame (illustrative .a) 1 base).txlen ≠ base.txlen ∧ (rxPush 1 base).rxlen ≠ base.rxlen ∧
    (rxClear decodedHK).recValid ≠ decodedHK.recValid ∧ (rxPush 0 loadedHK).rxovf = true ∧
    (rxClear (rxPush 0 loadedHK)).rxovf = false ∧ (readHK 2).field ≠ decodedHK.field ∧
    decodedHK.chkCalc ≠ loadedHK.chkCalc ∧ (crcInit crcA { base with acc := 1 }).acc ≠ 1 ∧ (readHK 7).err ≠ decodedHK.err := by
  decide +kernel

/-- Every code a command may report is reported somewhere. -/
theorem test_witness_EachCommandReportsOnlyItsCodes :
    (rxPush 0 loadedHK).err = 4 ∧ (encodeFrame (illustrative .a) 5 base).err = 3 ∧ (decodeReply crcA 0 base).err = 3 ∧
    (decodeReply crcA 5 base).err = 1 ∧ (decodeReply crcA 5 (loaded [0, 0, 1] 3)).err = 2 ∧
    (selectField (illustrative .a).rtcBits 2 base).err = 5 ∧ (readHK 7).err = 6 := by decide +kernel

theorem test_witness_OnlyTheOverflowFlagIsSticky :
    Instr.field 0 ≠ .nop ∧
    (∃ t, step { base with rxovf := true, pending := [.reset] } = .next t ∧ t.rxovf = false) ∧
    (∃ t, step { base with rxovf := true, pending := [.write 0x00 4 0x00003000] } = .next t ∧ t.rxovf = false) :=
  ⟨by decide, ⟨_, rfl, rfl⟩, ⟨_, rfl, rfl⟩⟩

theorem test_witness_EveryRecordRoundTrips (r : VersionRecord) (g : GenericRecord) :
    versionValue V r (5 : Byte).toNat = some r.build ∧ versionValue V r (10 : Byte).toNat = none ∧
    housekeepingValue V P.rtcBits scenarioRecord (2 : Byte).toNat = some 1000 ∧
    housekeepingValue V P.rtcBits scenarioRecord (7 : Byte).toNat = none ∧
    genericValue V g (0 : Byte).toNat = some (g.status.setWidth 32) ∧ genericValue V g (2 : Byte).toNat = none :=
  ⟨rfl, rfl, rfl, rfl, rfl, rfl⟩

theorem test_witness_WrongLengthIsALengthMismatch :
    (List.replicate 38 (0 : Byte)).length ≠ ReplyKind.getHousekeeping.len ∧ ([] : List Byte).length ≠ ReplyKind.generic.len := by
  decide

theorem test_witness_OneFlippedBitIsAChecksumMismatch :
    (housekeepingBody scenarioRecord).length + 1 = ReplyKind.getHousekeeping.len ∧ 36 < ReplyKind.getHousekeeping.len ∧
    7 < 8 := by decide +kernel

theorem test_witness_AFailedDecodeLeavesNoRecord :
    (∃ t, exec (.decode 5) base = .next t ∧ t.err ≠ 0) ∧ base.recValid = false ∧
    (decodeReply crcA 4 loadedHK).recValid = true ∧ loadedHK.recValid = false :=
  ⟨⟨_, rfl, by decide⟩, rfl, by decide +kernel, rfl⟩

theorem test_witness_TransactionsAreIndependent :
    Instr.rxClear ∉ [Instr.rxPush 1, .encode 4, .rxPush 2] ∧ Instr.rxClear ∉ [Instr.rxPush 1, .rxPush 2, .nop] ∧
    pushedBytes [Instr.rxPush 1, .encode 4, .rxPush 2] = pushedBytes [Instr.rxPush 1, .rxPush 2, .nop] ∧
    (4 : BitVec 4).toNat < 5 := by decide

theorem test_witness_TheResetInputResetsTheBlock : ({ busy with pending := [.reset] } : State).pending = .reset :: [] := rfl

/-- A full, overflowed buffer with a command pending: it meets both invariants, is not the reset state, and steps. -/
def overflowed : State := { base with rxovf := true, rxlen := 37, err := 4, pending := [.write 0x00 4 0x00003000] }

theorem test_witness_EveryStepKeepsTheInvariants :
    BlockInv V overflowed ∧ TxHoldsRequest P overflowed ∧ ∃ t, step overflowed = .next t := by
  refine ⟨⟨.inl rfl, fun i _ => Laws.bufByte_replicate i, by decide, fun i _ => Laws.bufByte_replicate i, fun _ => rfl,
    fun _ => rfl, fun h => ?_, by decide⟩, .inl ⟨rfl, rfl⟩, ⟨_, rfl⟩⟩
  cases h

theorem test_witness_TheAccessStatements :
    ((2 : Nat) ≠ 1 ∧ ¬ ((2 : Nat) = 4 ∧ (0x04 : Offset).toNat % 4 = 0)) ∧
    ((4 : Nat) ≠ 1 ∧ ¬ ((4 : Nat) = 4 ∧ (0x02 : Offset).toNat % 4 = 0)) ∧
    (0xFC : Offset).toNat % 4 = 0 ∧ (0x40 : Offset) ≠ 0x00 ∧ base.rxlen.toNat < 36 ∧
    (0x03 : Offset).toNat < 0x04 ∧ (0x1C ≤ (0x3F : Offset).toNat ∧ (0x3F : Offset).toNat < 0x40) ∧
    (0x65 ≤ (0x65 : Offset).toNat ∧ (0x7F : Offset).toNat < 0x80) ∧ 0xA5 ≤ (0xA5 : Offset).toNat ∧ 37 ≤ 37 ∧ 36 < 37 := by
  decide

theorem test_witness_TheWindowLiesAtTheBase :
    offsetOfAddress { illustrative .a with blockBase := 0x1000 } 0x10FF = some 0xFF ∧
    255 < ({ illustrative .a with blockBase := 256 } : Params).blockBase := by decide +kernel

theorem test_witness_AdmittedAccessesAreNeverRefused :
    NoAccessRefused base ∧ ∀ e ∈ ({ base with pending := [.read 0x05 1, .write 0x00 4 0, .reset] } : State).pending,
      admittedEvent e = true :=
  ⟨(fun off h => by cases h), by decide⟩

theorem test_witness_QueryOutcomesFollowTheReply :
    (∀ sel ∈ ([0, 2, 28] : List Byte), (fieldEntry P.rtcBits (queryReply .getHousekeeping) sel).isSome) ∧
    ([0x00] : List Byte).length ≠ (queryReply .getVersion).len ∧
    (sealFrame V (housekeepingBody scenarioRecord)).length = (queryReply .getHousekeeping).len := by
  refine ⟨?_, by decide, rfl⟩
  intro sel h
  simp only [List.mem_cons, List.not_mem_nil, or_false] at h
  rcases h with rfl | rfl | rfl <;> rfl

/-- Both halves: housekeeping selectors of the scenario's record, and version selectors up to the last description byte. -/
theorem test_witness_TheQueriesReturnTheRecord :
    ([2, 3] : List Byte).mapM (fun sel => housekeepingValue V P.rtcBits scenarioRecord sel.toNat) = some [1000, 500] ∧
    ([5, 6, 34] : List Byte).mapM (fun sel => versionValue V versionScenario sel.toNat) = some [0xDEADBEEF, 0x1234, 0x00] :=
  ⟨rfl, rfl⟩

end Sys2Proof.Tests
end

section
/-! PROOFS of the family 10_state.md: what the window shows at each offset (R35), and the state at reset (R33). -/

namespace Sys2Proof.Proofs

open Sys2Proof Sys2Proof.Machine Sys2Proof.Stated Sys2Proof.Laws

/-! ## The bytes of a register -/

theorem getLsbD_byteOf (w : Word) (t : Nat) {i : Nat} (h : i < 8) :
    (byteOf w t).getLsbD i = w.getLsbD (8 * t + i) := by
  rw [byteOf, BitVec.getLsbD_extractLsb', decide_eq_true h, Bool.true_and]

/-- The lowest byte of a zero-extended byte is that byte. -/
@[simp] theorem byteOf_setWidth_zero (b : Byte) : byteOf (b.setWidth 32) 0 = b := by
  apply BitVec.eq_of_getLsbD_eq
  intro i hi
  rw [getLsbD_byteOf _ _ hi, BitVec.getLsbD_setWidth, decide_eq_true (by omega), Bool.true_and, Nat.mul_zero, Nat.zero_add]

/-- `CHK` holds `CALC` in bits 7:0 and `RECV` in bits 15:8, and its other bits are 0 (R32). -/
theorem getLsbD_chk (v : CrcVariant) (s : State) {i : Nat} (hi : i < 32) :
    (regWord v s .chk).getLsbD i = if i < 8 then s.chkCalc.getLsbD i else s.chkRecv.getLsbD (i - 8) := by
  simp only [regWord, BitVec.getLsbD_or, BitVec.getLsbD_shiftLeft, BitVec.getLsbD_setWidth]
  by_cases h : i < 8
  · simp [h, hi]
  · simp [h, hi, show i - 8 < 32 by omega, BitVec.getLsbD_of_ge s.chkCalc i (by omega)]

theorem byteOf_chk_calc (v : CrcVariant) (s : State) : byteOf (regWord v s .chk) 0 = s.chkCalc := by
  apply BitVec.eq_of_getLsbD_eq
  intro i hi
  rw [getLsbD_byteOf _ _ hi, getLsbD_chk v s (by omega), if_pos (by omega), Nat.mul_zero, Nat.zero_add]

theorem byteOf_chk_recv (v : CrcVariant) (s : State) : byteOf (regWord v s .chk) 1 = s.chkRecv := by
  apply BitVec.eq_of_getLsbD_eq
  intro i hi
  rw [getLsbD_byteOf _ _ hi, getLsbD_chk v s (by omega), if_neg (by omega), Nat.mul_one, Nat.add_sub_cancel_left]

theorem byteOf_chk_above (v : CrcVariant) (s : State) {t : Nat} (h2 : 2 ≤ t) (h4 : t < 4) :
    byteOf (regWord v s .chk) t = 0 := by
  apply BitVec.eq_of_getLsbD_eq
  intro i hi
  rw [getLsbD_byteOf _ _ hi, getLsbD_chk v s (by omega), if_neg (by omega), BitVec.getLsbD_of_ge _ _ (by omega)]
  exact BitVec.getLsbD_zero.symm

/-! ## The window below the buffers -/

/-- Byte `t` of the window at a register's offset is byte `t` of the register. -/
theorem windowByte_reg (v : CrcVariant) (s : State) (r : Reg) {t : Nat} (h : t < 4) :
    windowByte v s (regOffset r + BitVec.ofNat 8 t) = byteOf (regWord v s r) t := by
  interval_cases t <;> cases r <;> rfl

/-- `CRC` shows `crc_out(acc)` in its low byte (R30). -/
theorem windowByte_crc (v : CrcVariant) (s : State) : windowByte v s 0x08 = crcOut v s.acc :=
  (windowByte_reg v s .crc (t := 0) (by omega)).trans (byteOf_setWidth_zero _)

theorem regAt_of_ge : ∀ {j : Nat}, 7 ≤ j → regAt j = none
  | 0, h | 1, h | 2, h | 3, h | 4, h | 5, h | 6, h => by omega
  | _ + 7, _ => rfl

/-- The reserved ranges of the window read 0 (R35). -/
theorem windowByte_reserved (v : CrcVariant) (s : State) {off : Offset}
    (h : (0x1C ≤ off.toNat ∧ off.toNat ≤ 0x3F) ∨ (0x65 ≤ off.toNat ∧ off.toNat ≤ 0x7F) ∨ 0xA5 ≤ off.toNat) :
    windowByte v s off = 0 := by
  unfold windowByte
  obtain ⟨lo, hi⟩ | ⟨lo, hi⟩ | lo := h
  · rw [if_pos (by omega), regByte, regAt_of_ge (by omega)]
  · rw [if_neg (by omega), if_pos (by omega), bufByte_of_ge _ (by omega)]
  · rw [if_neg (by omega), if_neg (by omega), bufByte_of_ge _ (by omega)]

/-! ## Writes beside `CMD` -/

/-- An admitted write to any offset but that of `CMD` has no effect (R55). -/
theorem busWrite_beside_cmd {off : Offset} (w : Word) (s : State) (ha : off.toNat % 4 = 0) (hc : off ≠ regOffset .cmd) :
    busWrite off 4 w s = .ok (.next s) := by
  rw [busWrite, if_pos ⟨rfl, ha⟩, if_neg hc]

/-- Settles O50: registers by `windowWord_reg` and the bytes of `CHK`, the buffers by `windowByte_tx` and `windowByte_rx`. -/
theorem theOffsetMap : Obligations.TheOffsetMap := by
  refine ⟨fun s => ?registers, fun s i h => ⟨?tx, ?rx⟩, fun s off h => windowByte_reserved V s h,
    fun s off w ha hc => busWrite_beside_cmd w s ha hc⟩
  case registers =>
    have chk {t : Nat} (h : t < 4) := windowByte_reg V s .chk h
    exact ⟨windowWord_reg V s .cmd, windowWord_reg V s .status, windowWord_reg V s .crc, windowWord_reg V s .txlen,
      windowWord_reg V s .rxlen, windowWord_reg V s .field,
      (chk (t := 0) (by decide)).trans (byteOf_chk_calc V s), (chk (t := 1) (by decide)).trans (byteOf_chk_recv V s),
      (chk (t := 2) (by decide)).trans (byteOf_chk_above V s (by decide) (by decide)),
      (chk (t := 3) (by decide)).trans (byteOf_chk_above V s (by decide) (by decide))⟩
  case tx => rw [windowByte_tx V s (by omega), bufByte_of_lt _ h]
  case rx => rw [windowByte_rx V s (by omega), bufByte_of_lt _ h]

/-! ## Reset -/

/-- Every field of `STATUS` is 0 after reset, so the word is (R28, R33). -/
theorem windowWord_status_resetWith (v v' : CrcVariant) : windowWord v' (State.resetWith v) 0x04 = 0 := by
  have h : regWord v' (State.resetWith v) .status = 0 := by simp [regWord, statusWord]
  exact (windowWord_reg v' _ .status).trans h

theorem windowWord_chk_resetWith (v v' : CrcVariant) : windowWord v' (State.resetWith v) 0x18 = 0 := by
  have h : regWord v' (State.resetWith v) .chk = 0 := by simp [regWord]
  exact (windowWord_reg v' _ .chk).trans h

/-- Settles O39: the elements are those of `State.resetWith`, and `CRC` shows `crc_out` of the initial `acc`, which is the
fold over no byte. -/
theorem resetGivesEveryElementItsValue : Obligations.ResetGivesEveryElementItsValue := by
  have crc : windowByte V State.reset 0x08 = crcOut V V.init := windowByte_crc V State.reset
  exact ⟨rfl, bufByte_replicate, rfl, bufByte_replicate, rfl, windowWord_status_resetWith V V, rfl, rfl, rfl, rfl, rfl,
    windowWord_chk_resetWith V V, crc,
    crc.trans (crc8_eq_out_fold V []).symm⟩

end Sys2Proof.Proofs
end

section
/-! PROOFS of the family 20_memory.md: the byte order of the window (R52) and the accesses the port admits (R53). -/

namespace Sys2Proof.Proofs

open Sys2Proof Sys2Proof.Machine Sys2Proof.Stated Sys2Proof.Laws

/-! ## Words and bytes of the window -/

/-- Byte `t` of the little-endian word of four bytes is the `t`-th of them (R50). -/
theorem byteOf_wordOfBytes (b : Nat → Byte) {t : Nat} (h : t < 4) :
    byteOf (wordOfBytes (b 0) (b 1) (b 2) (b 3)) t = b t := by
  apply BitVec.eq_of_toNat_eq
  have h0 := (b 0).isLt
  have h1 := (b 1).isLt
  have h2 := (b 2).isLt
  have h3 := (b 3).isLt
  rw [byteOf, BitVec.extractLsb'_toNat, wordOfBytes_toNat, Nat.shiftRight_eq_div_pow]
  interval_cases t <;> omega

/-- The bytes of a 4-byte read, by their index (R52). The byte offsets wrap like any offset; at an aligned one they do not. -/
theorem windowWord_eq_wordOfBytes (v : CrcVariant) (s : State) (off : Offset) :
    windowWord v s off = wordOfBytes (windowByte v s (off + BitVec.ofNat 8 0)) (windowByte v s (off + BitVec.ofNat 8 1))
      (windowByte v s (off + BitVec.ofNat 8 2)) (windowByte v s (off + BitVec.ofNat 8 3)) := by
  rw [windowWord, BitVec.add_zero]; rfl

theorem windowWord_toNat (v : CrcVariant) (s : State) (off : Offset) :
    (windowWord v s off).toNat =
      ∑ t ∈ Finset.range 4, (windowByte v s (off + BitVec.ofNat 8 t)).toNat * 2 ^ (8 * t) := by
  rw [windowWord_eq_wordOfBytes, wordOfBytes_toNat]
  simp [Finset.sum_range_succ]

theorem byteOf_windowWord (v : CrcVariant) (s : State) (off : Offset) {t : Nat} (h : t < 4) :
    byteOf (windowWord v s off) t = windowByte v s (off + BitVec.ofNat 8 t) := by
  rw [windowWord_eq_wordOfBytes]
  exact byteOf_wordOfBytes (fun t => windowByte v s (off + BitVec.ofNat 8 t)) h

/-- Where the window shows bytes `o` to `o + 3` of a buffer, a 4-byte read shows their little-endian value. -/
theorem windowWord_toNat_of_buffer {v : CrcVariant} {s : State} {B : Buffer} {a o : Nat}
    (h : ∀ t < 4, windowByte v s (BitVec.ofNat 8 (a + (o + t))) = bufByte B (o + t)) :
    (windowWord v s (BitVec.ofNat 8 (a + o))).toNat = littleEndian B o 4 := by
  rw [windowWord_toNat, littleEndian]
  refine Finset.sum_congr rfl fun t ht => ?_
  rw [← BitVec.ofNat_add, Nat.add_assoc, h t (Finset.mem_range.mp ht)]

/-- Settles O49: the window's bytes determine its words, and the buffer windows show the bytes of the buffers. -/
theorem wordReadsAreLittleEndian : Obligations.WordReadsAreLittleEndian :=
  ⟨fun s off _ => windowWord_toNat V s off,
    fun s off _ _ ht => byteOf_windowWord V s off ht,
    fun s _ _ => windowWord_toNat_of_buffer fun _ _ => windowByte_tx V s (by omega),
    fun s _ _ => windowWord_toNat_of_buffer fun _ _ => windowByte_rx V s (by omega),
    fun B _ hi => bufByte_of_ge B hi⟩

/-! ## The accesses the port admits -/

theorem busRead_byte (v : CrcVariant) (off : Offset) (s : State) :
    busRead v off 1 s = .ok (.byte (windowByte v s off)) := by
  rw [busRead, if_pos rfl]

theorem busRead_word (v : CrcVariant) {off : Offset} (s : State) (ha : off.toNat % 4 = 0) :
    busRead v off 4 s = .ok (.word (windowWord v s off)) := by
  rw [busRead, if_neg (by decide), if_pos ⟨rfl, ha⟩]

theorem busRead_refused (v : CrcVariant) {off : Offset} {n : Nat} (s : State) (h1 : n ≠ 1)
    (h4 : ¬ (n = 4 ∧ off.toNat % 4 = 0)) : busRead v off n s = .error (.busError off) := by
  rw [busRead, if_neg h1, if_neg h4]

/-- An admitted write to `CMD` runs the word written (R55). -/
theorem busWrite_cmd (w : Word) (s : State) : busWrite (regOffset .cmd) 4 w s = .ok (runCommand w s) := by
  rw [busWrite, if_pos ⟨rfl, rfl⟩, if_pos rfl]

theorem busWrite_refused {off : Offset} {n : Nat} (w : Word) (s : State) (h : ¬ (n = 4 ∧ off.toNat % 4 = 0)) :
    busWrite off n w s = .error (.busError off) := by
  rw [busWrite, if_neg h]

theorem busWrite_admitted {off : Offset} (w : Word) (s : State) (ha : off.toNat % 4 = 0) :
    ∃ o, busWrite off 4 w s = .ok o := by
  by_cases hc : off = regOffset .cmd
  · exact ⟨_, hc ▸ busWrite_cmd w s⟩
  · exact ⟨_, busWrite_beside_cmd w s ha hc⟩

/-- An operation that succeeds under `p` and fails with `e` otherwise succeeds exactly under `p`, and has no other error. -/
theorem ok_iff_and_ok_or_error {ε α : Type} {x : Except ε α} {e : ε} {p : Prop}
    (ok : p → ∃ a, x = .ok a) (error : ¬ p → x = .error e) :
    ((∃ a, x = .ok a) ↔ p) ∧ ((∃ a, x = .ok a) ∨ x = .error e) := by
  by_cases hp : p
  · exact ⟨iff_of_true (ok hp) hp, .inl (ok hp)⟩
  · exact ⟨iff_of_false (by simp [error hp]) hp, .inr (error hp)⟩

/-- Settles O45: each admitted access has its answer, and both operations refuse every other one. -/
theorem theAdmittedAccesses : Obligations.TheAdmittedAccesses := by
  refine ⟨fun off n s => ok_iff_and_ok_or_error ?read ?readRefused,
    fun off n w s => ok_iff_and_ok_or_error ?write (busWrite_refused w s)⟩
  case read =>
    rintro (rfl | ⟨rfl, ha⟩)
    · exact ⟨_, busRead_byte V off s⟩
    · exact ⟨_, busRead_word V s ha⟩
  case readRefused =>
    intro h
    obtain ⟨h1, h4⟩ := not_or.mp h
    exact busRead_refused V s h1 h4
  case write =>
    rintro ⟨rfl, ha⟩
    exact busWrite_admitted w s ha

end Sys2Proof.Proofs
end

section
/-! PROOFS of the family 30_encoding.md: illegal words (R73), the request image (R76) and the field selectors (R83 to R86). -/

namespace Sys2Proof.Proofs

open Sys2Proof Sys2Proof.Machine Sys2Proof.Stated Sys2Proof.Laws

/-! ## The decoder -/

theorem withNoOperand_eq_ok_iff {w : Word} {i j : Instr} :
    withNoOperand w i = .ok j ↔ kindOf w = 0 ∧ immOf w = 0 ∧ i = j := by
  unfold withNoOperand
  split_ifs with hk hi <;> simp_all

theorem withImm_eq_ok_iff {w : Word} {mk : Byte → Instr} {j : Instr} :
    withImm w mk = .ok j ↔ kindOf w = 0 ∧ mk (immOf w) = j := by
  unfold withImm
  split_ifs with hk <;> simp_all

theorem withKind_eq_ok_iff {w : Word} {mk : BitVec 4 → Instr} {j : Instr} :
    withKind w mk = .ok j ↔ immOf w = 0 ∧ mk (kindOf w) = j := by
  unfold withKind
  split_ifs with hi <;> simp_all

/-- The word of a command is read as that command. -/
theorem decode_encode (i : Instr) : decode (encode i) = .ok i := by
  cases i <;> simp [decode, encode, withNoOperand_eq_ok_iff, withImm_eq_ok_iff, withKind_eq_ok_iff]

/-- A word the decoder accepts is the word of the command it reads: the branch taken fixes `OP` and the fields that must be
zero, and the operand is read from the only other field. -/
theorem encode_of_decode {w : Word} {i : Instr} (h : decode w = .ok i) : encode i = w := by
  unfold decode at h
  split_ifs at h with hrsv
  rw [← commandWord_of_fields (not_not.mp hrsv)]
  have fromNoOperand {j : Instr} (hj : encode j = commandWord (opOf w) 0 0) (h : withNoOperand w j = .ok i) :
      encode i = commandWord (opOf w) (kindOf w) (immOf w) := by
    obtain ⟨hk, hi, rfl⟩ := withNoOperand_eq_ok_iff.mp h
    rw [hk, hi, hj]
  have fromImm {mk : Byte → Instr} (hmk : ∀ b, encode (mk b) = commandWord (opOf w) 0 b) (h : withImm w mk = .ok i) :
      encode i = commandWord (opOf w) (kindOf w) (immOf w) := by
    obtain ⟨hk, rfl⟩ := withImm_eq_ok_iff.mp h
    rw [hk, hmk]
  have fromKind {mk : BitVec 4 → Instr} (hmk : ∀ k, encode (mk k) = commandWord (opOf w) k 0)
      (h : withKind w mk = .ok i) : encode i = commandWord (opOf w) (kindOf w) (immOf w) := by
    obtain ⟨hi, rfl⟩ := withKind_eq_ok_iff.mp h
    rw [hi, hmk]
  obtain op | op | op | op | op | op | op | op | op := op_cases (opOf w)
  case inr.inr.inr.inr.inr.inr.inr.inr =>
    split at h
    case h_9 => cases h
    all_goals omega
  all_goals rw [op] at h
  · exact fromNoOperand (by rw [op]; rfl) h
  · exact fromNoOperand (by rw [op]; rfl) h
  · exact fromImm (fun b => by rw [op]; rfl) h
  · exact fromNoOperand (by rw [op]; rfl) h
  · exact fromImm (fun b => by rw [op]; rfl) h
  · exact fromKind (fun k => by rw [op]; rfl) h
  · exact fromKind (fun k => by rw [op]; rfl) h
  · exact fromImm (fun b => by rw [op]; rfl) h

theorem runCommand_encode (i : Instr) (s : State) : runCommand (encode i) s = exec i s := by
  rw [runCommand, decode_encode]

/-- A word that is the word of no command is illegal (R73). -/
theorem runsAsIllegal_of_encode_ne {w : Word} (h : ∀ i, encode i ≠ w) : RunsAsIllegal w := by
  intro s
  rw [runCommand]
  cases hd : decode w with
  | error e => rfl
  | ok i => exact absurd (encode_of_decode hd) (h i)

/-- Every word is the word of a command, or is illegal. -/
theorem encode_or_runsAsIllegal (w : Word) : (∃ i, encode i = w) ∨ RunsAsIllegal w := by
  rw [or_iff_not_imp_left, not_exists]
  exact runsAsIllegal_of_encode_ne

/-! ## Legal words -/

theorem legalWord_encode (i : Instr) : legalWord (encode i) = true := by
  cases i with
  | nop => exact EncodeLegal.nop
  | crcInit => exact EncodeLegal.crcInit
  | crcByte b => exact EncodeLegal.crcByte b
  | rxClear => exact EncodeLegal.rxClear
  | rxPush b => exact EncodeLegal.rxPush b
  | encode k => exact EncodeLegal.encode k
  | decode k => exact EncodeLegal.decode k
  | field sel => exact EncodeLegal.field sel

/-- The formula of R120 as a proposition, in the names of R70. -/
theorem legalWord_iff (w : Word) :
    legalWord w = true ↔ RSV w = 0 ∧ (OP w).toNat ≤ 7 ∧ (KIND w = 0 ∨ OP w = 5 ∨ OP w = 6) ∧
      (IMM8 w = 0 ∨ OP w = 2 ∨ OP w = 4 ∨ OP w = 7) := by
  simp only [legalWord, Bool.and_eq_true, Bool.or_eq_true, beq_iff_eq, decide_eq_true_eq, and_assoc, or_assoc]

theorem runsAsIllegal_of_not_legalWord {w : Word} (h : ¬ legalWord w = true) : RunsAsIllegal w :=
  runsAsIllegal_of_encode_ne fun i hi => h (hi ▸ legalWord_encode i)

/-- A mask that keeps `RSV` and `OP` only acts on the operands. -/
theorem commandWord_and_mask (op kind km : BitVec 4) (imm im : Byte) :
    commandWord op kind imm &&& (0xFFFFF000 ||| commandWord 0 km im) = commandWord op (kind &&& km) (imm &&& im) := by
  apply BitVec.eq_of_getLsbD_eq
  intro i hi
  simp only [commandWord, BitVec.getLsbD_and, BitVec.getLsbD_or, BitVec.getLsbD_shiftLeft, BitVec.getLsbD_setWidth]
  interval_cases i <;> simp

/-- A command word that carries its operand in `IMM8` meets the rows with the mask 0xFFFFFF00. -/
theorem commandWord_and_immMask (op : BitVec 4) (imm : Byte) :
    commandWord op 0 imm &&& 0xFFFFFF00 = commandWord op 0 0 :=
  (commandWord_and_mask op 0 15 imm 0).trans (by simp)

/-- A command word that carries its operand in `KIND` meets the rows with the mask 0xFFFFF0FF. -/
theorem commandWord_and_kindMask (op kind : BitVec 4) :
    commandWord op kind 0 &&& 0xFFFFF0FF = commandWord op 0 0 :=
  (commandWord_and_mask op kind 0 0 255).trans (by simp)

/-- The word of a command matches a row of R72. -/
theorem exists_row_matches_encode (i : Instr) : ∃ r ∈ opcodeRows, r.matchesWord (encode i) = true := by
  cases i with
  | nop => decide
  | crcInit => decide
  | rxClear => decide
  | crcByte b => exact ⟨opcodeRows[2], List.getElem_mem _, beq_iff_eq.mpr (commandWord_and_immMask 2 b)⟩
  | rxPush b => exact ⟨opcodeRows[4], List.getElem_mem _, beq_iff_eq.mpr (commandWord_and_immMask 4 b)⟩
  | encode k => exact ⟨opcodeRows[5], List.getElem_mem _, beq_iff_eq.mpr (commandWord_and_kindMask 5 k)⟩
  | decode k => exact ⟨opcodeRows[6], List.getElem_mem _, beq_iff_eq.mpr (commandWord_and_kindMask 6 k)⟩
  | field sel => exact ⟨opcodeRows[7], List.getElem_mem _, beq_iff_eq.mpr (commandWord_and_immMask 7 sel)⟩

/-! ## What running a command writes to `STATUS.ERR` -/

/-- Every command but NOP writes an error code of R180. -/
theorem exec_err (i : Instr) (s : State) : i = .nop ∨ ∃ t c, exec i s = .next t ∧ t.err = ErrCode.code c := by
  refine or_iff_not_imp_left.mpr fun hi => ?_
  cases i with
  | nop => exact absurd rfl hi
  | crcInit => exact ⟨_, .none, rfl, rfl⟩
  | crcByte b => exact ⟨_, .none, rfl, rfl⟩
  | rxClear => exact ⟨_, .none, rfl, rfl⟩
  | rxPush b =>
    refine ⟨rxPush b s, ?_⟩
    by_cases h : s.rxlen.toNat < 37
    · exact ⟨.none, rfl, by rw [rxPush_of_lt b h]; rfl⟩
    · exact ⟨.rxOverflow, rfl, by rw [rxPush_of_full b h]; rfl⟩
  | encode k =>
    obtain ⟨K, -, h⟩ | ⟨-, h⟩ := encodeFrame_cases P k s
    · exact ⟨_, .none, rfl, by rw [h]; rfl⟩
    · exact ⟨_, .badKind, rfl, by rw [h]; rfl⟩
  | decode k =>
    obtain ⟨-, h⟩ | ⟨K, -, ⟨-, h⟩ | ⟨-, -, ⟨-, h⟩ | ⟨-, h⟩⟩⟩ := decodeReply_cases V k s
    · exact ⟨_, .badKind, rfl, by rw [h]; rfl⟩
    · exact ⟨_, .lengthMismatch, rfl, by rw [h]; rfl⟩
    · exact ⟨_, .checksumMismatch, rfl, by rw [h]; rfl⟩
    · exact ⟨_, .none, rfl, by rw [h]; rfl⟩
  | field sel =>
    obtain ⟨-, h⟩ | ⟨-, -, h⟩ | ⟨x, -, -, h⟩ := selectField_cases P.rtcBits sel s
    · exact ⟨_, .noRecord, rfl, by rw [h]; rfl⟩
    · exact ⟨_, .badField, rfl, by rw [h]; rfl⟩
    · exact ⟨_, .none, rfl, by rw [h]; rfl⟩

/-- A word other than 0 writes an error code of R180, the code 7 of an illegal word among them. -/
theorem runCommand_err {w : Word} (h : w ≠ 0) (s : State) :
    ∃ t c, runCommand w s = .next t ∧ t.err = ErrCode.code c := by
  obtain ⟨i, rfl⟩ | hill := encode_or_runsAsIllegal w
  · rw [runCommand_encode]
    exact (exec_err i s).resolve_left fun hi => h (by rw [hi]; rfl)
  · exact ⟨_, .illegalCmd, hill s, rfl⟩

/-- Only NOP has no effect: any other word overwrites an `ERR` of 15, which is no error code (R73). -/
theorem runCommand_eq_next_iff (w : Word) : (∀ s : State, runCommand w s = .next s) ↔ w = 0 := by
  constructor
  · intro h
    by_contra hw
    obtain ⟨t, c, ht, hc⟩ := runCommand_err hw { State.reset with err := 15 }
    rw [h] at ht
    obtain rfl := Host.Outcome.next.inj ht
    cases c <;> exact absurd hc (by decide)
  · rintro rfl s
    exact runCommand_encode .nop s

/-- Settles O6: a word with one of the four defects is no legal word, and the word of a command matches its row; the execution
errors are the ends of ENCODE, DECODE and FIELD without a meaning for their operand. -/
theorem illegalWordsOnlySetTheirCode : Obligations.IllegalWordsOnlySetTheirCode := by
  refine ⟨fun w h => ?row, fun w h => ?rsv, fun w h => ?op, fun w h h5 h6 => ?kind, fun w h h2 h4 h7 => ?imm,
    runCommand_eq_next_iff, fun k s h => ?encode, fun k s h3 h4 h5 => ?decode, fun sel s hv hf => ?field⟩
  case row =>
    refine runsAsIllegal_of_encode_ne ?_
    rintro i rfl
    obtain ⟨r, hr, hm⟩ := exists_row_matches_encode i
    exact Bool.noConfusion ((h r hr).symm.trans hm)
  case rsv =>
    refine runsAsIllegal_of_not_legalWord fun hl => ?_
    obtain ⟨rsv, -, -, -⟩ := (legalWord_iff w).mp hl
    exact h rsv
  case op =>
    refine runsAsIllegal_of_not_legalWord fun hl => ?_
    obtain ⟨-, op, -, -⟩ := (legalWord_iff w).mp hl
    omega
  case kind =>
    refine runsAsIllegal_of_not_legalWord fun hl => ?_
    obtain ⟨-, -, kind, -⟩ := (legalWord_iff w).mp hl
    exact kind.elim h (·.elim h5 h6)
  case imm =>
    refine runsAsIllegal_of_not_legalWord fun hl => ?_
    obtain ⟨-, -, -, imm⟩ := (legalWord_iff w).mp hl
    exact imm.elim h (·.elim h2 (·.elim h4 h7))
  case encode => rw [runCommand_encode, exec_encode, encodeFrame_of_none _ s ((requestOfCode_eq_none_iff k).mpr h)]
  case decode =>
    rw [runCommand_encode, exec_decode, decodeReply_badKind _ s ((replyOfCode_eq_none_iff k).mpr ⟨h3, h4, h5⟩)]
  case field => rw [runCommand_encode, exec_field, selectField_badField _ hv hf]

/-! ## The request image -/

/-- All bytes of the request image but the last are the template's (R76). -/
theorem reqImage_take (p : Params) (k : RequestKind) :
    (reqImage p k).take (k.len - 1) = (p.reqTemplate k).toList.take (k.len - 1) := by
  unfold reqImage
  split
  · simp
  · rfl

/-- Settles O19: by `reqImage_take`, and by the two cases of `REQ_CRC` for the last byte. -/
theorem requestImageIsTheTemplateWithItsChecksum : Obligations.RequestImageIsTheTemplateWithItsChecksum := by
  intro p k
  refine ⟨reqImage_length p k, fun i hi => ?body, fun hc => ?checksum, fun hc => ?plain⟩
  case body =>
    rw [← List.getElem?_take_of_lt hi, reqImage_take, List.getElem?_take_of_lt hi, Vector.getElem?_toList]
  case checksum =>
    rw [reqImage_take, reqImage, if_pos hc]
    simp
  case plain =>
    rw [reqImage, hc]
    simp

/-! ## Field selectors -/

theorem leSum_eq_littleEndian (B : Buffer) (o n : Nat) : leSum B o n = littleEndian B o n := by
  induction n with
  | zero => rfl
  | succ n ih => rw [leSum_succ, ih, littleEndian, littleEndian, Finset.sum_range_succ]

section
variable {s : State} {K : ReplyKind} {sel : Byte}

/-- `FIELD` on a valid record of kind `K` with a selector that names a field (R83, R128). -/
theorem exec_field_of_entry {e : Entry} (hv : s.recValid = true) (hk : s.recKind = replyCode K)
    (he : fieldEntry P.rtcBits K sel = some e) :
    exec (.field sel) s = .next { s with field := entryValue s.rxbuf e, err := 0 } := by
  rw [exec_field, selectField_value P.rtcBits hv (by rw [hk, fieldValue_reply, he]; rfl)]

/-- `FIELD` on a valid record of kind `K` with a selector that names no field (R83, R128). -/
theorem exec_field_of_no_entry (hv : s.recValid = true) (hk : s.recKind = replyCode K)
    (he : fieldEntry P.rtcBits K sel = none) :
    exec (.field sel) s = .next { s with field := 0, err := 6 } := by
  rw [exec_field, selectField_badField P.rtcBits hv (by rw [hk, fieldValue_reply, he]; rfl)]

/-- A field of at most four bytes is read as its little-endian value (R10, R83). -/
theorem exec_field_littleEndian {o n : Nat} (hv : s.recValid = true) (hk : s.recKind = replyCode K)
    (he : fieldEntry P.rtcBits K sel = some (.bytes o n)) (hn : n ≤ 4) :
    ∃ t, exec (.field sel) s = .next t ∧ t = { s with field := t.field, err := 0 } ∧
      t.field.toNat = littleEndian s.rxbuf o n :=
  ⟨_, exec_field_of_entry hv hk he, rfl, (leField_toNat s.rxbuf o hn).trans (leSum_eq_littleEndian s.rxbuf o n)⟩

end

theorem versionEntry_of_row {row : Nat × Nat × Nat} (h : row ∈ versionRows) :
    versionEntry row.1 = some (.bytes row.2.1 row.2.2) :=
  List.map_inj_left.mp
    (show versionRows.map (versionEntry ·.1) = versionRows.map fun r => some (.bytes r.2.1 r.2.2) from rfl) row h

theorem versionEntry_of_gap {n : Nat} (h : (10 ≤ n ∧ n ≤ 15) ∨ 35 ≤ n) : versionEntry n = none := by
  unfold versionEntry
  split
  case h_11 => exact if_neg (by omega)
  all_goals omega

theorem versionRows_size : ∀ row ∈ versionRows, row.2.2 ≤ 4 := by decide

theorem housekeepingEntry_of_row (bits : RtcBits) {row : Nat × Nat × Nat} (h : row ∈ housekeepingRows) :
    housekeepingEntry bits row.1 = some (.bytes row.2.1 row.2.2) :=
  List.map_inj_left.mp
    (show housekeepingRows.map (housekeepingEntry bits ·.1) = housekeepingRows.map fun r => some (.bytes r.2.1 r.2.2)
      from rfl) row h

theorem housekeepingEntry_of_flagRow (bits : RtcBits) {row : Nat × Nat} (h : row ∈ flagRows bits) :
    housekeepingEntry bits row.1 = some (.bit row.2) :=
  List.map_inj_left.mp
    (show (flagRows bits).map (housekeepingEntry bits ·.1) = (flagRows bits).map fun r => some (.bit r.2) from rfl) row h

theorem housekeepingEntry_of_gap (bits : RtcBits) {n : Nat} (h : n = 7 ∨ (18 ≤ n ∧ n ≤ 23) ∨ 29 ≤ n) :
    housekeepingEntry bits n = none := by
  unfold housekeepingEntry
  split
  case h_13 => exact if_neg (by omega)
  all_goals omega

theorem housekeepingRows_size : ∀ row ∈ housekeepingRows, row.2.2 ≤ 4 := by decide

theorem genericEntry_of_gap {n : Nat} (h : 2 ≤ n) : genericEntry n = none := by
  unfold genericEntry
  split
  case h_3 => rfl
  all_goals omega

theorem entryValue_bit (B : Buffer) (p : Nat) :
    entryValue B (.bit p) = if (bufByte B 2).getLsbD p then 1 else 0 := by
  rw [entryValue]
  cases (bufByte B 2).getLsbD p <;> rfl

theorem entryValue_byte (B : Buffer) (o : Nat) : entryValue B (.bytes o 1) = (bufByte B o).setWidth 32 :=
  leField_one B o

/-- Settles O26: each row is an entry of `versionEntry`, and the gaps have none. -/
theorem versionSelectorsReadTheirBytes : Obligations.VersionSelectorsReadTheirBytes := by
  refine fun s hv hk => ⟨fun row hrow sel hsel => ?_, fun sel hgap => ?_⟩
  · exact exec_field_littleEndian (K := .getVersion) hv hk (by rw [fieldEntry, hsel, versionEntry_of_row hrow])
      (versionRows_size row hrow)
  · exact exec_field_of_no_entry (K := .getVersion) hv hk (versionEntry_of_gap hgap)

/-- Settles O27: as for GET_VERSION, with the flags read by `entryValue_bit`. -/
theorem housekeepingSelectorsReadTheirBytes : Obligations.HousekeepingSelectorsReadTheirBytes := by
  refine fun s hv hk => ⟨fun row hrow sel hsel => ?bytes, fun row hrow sel hsel => ?flag, fun sel hgap => ?gap⟩
  case bytes =>
    exact exec_field_littleEndian (K := .getHousekeeping) hv hk
      (by rw [fieldEntry, hsel, housekeepingEntry_of_row _ hrow]) (housekeepingRows_size row hrow)
  case flag =>
    rw [← entryValue_bit]
    exact exec_field_of_entry (K := .getHousekeeping) hv hk
      (by rw [fieldEntry, hsel, housekeepingEntry_of_flagRow _ hrow])
  case gap => exact exec_field_of_no_entry (K := .getHousekeeping) hv hk (housekeepingEntry_of_gap _ hgap)

/-- Settles O28: both selectors read one byte (`entryValue_byte`), and the gap has no entry. -/
theorem genericSelectorsReadTheirBytes : Obligations.GenericSelectorsReadTheirBytes := by
  refine fun s hv hk => ⟨?status, ?checksum, fun sel hgap => ?gap⟩
  case status =>
    rw [← entryValue_byte]
    exact exec_field_of_entry (K := .generic) hv hk rfl
  case checksum =>
    rw [← entryValue_byte]
    exact exec_field_of_entry (K := .generic) hv hk rfl
  case gap => exact exec_field_of_no_entry (K := .generic) hv hk (genericEntry_of_gap hgap)

end Sys2Proof.Proofs
end

section
/-! PROOFS of the family 40_checksum.md: the output step of the CRC (R102), CRC_INIT and CRC_BYTE (R104, R105), and the command
sequence `CRC8 B` (R106). -/

namespace Sys2Proof.Proofs

open Sys2Proof Sys2Proof.Machine Sys2Proof.Stated Sys2Proof.Laws

/-! ## The output step -/

theorem getLsbD_crcOut (v : CrcVariant) (c : Byte) {i : Nat} (h : i < 8) :
    (crcOut v c).getLsbD i = ((if v.refout then c.getLsbD (7 - i) else c.getLsbD i) ^^ v.xorout.getLsbD i) := by
  rw [crcOut, BitVec.getLsbD_xor, apply_ite (BitVec.getLsbD · i), getLsbD_rev8 c h]

/-- Without reflection and with `XOROUT` 0, `CRC` shows the accumulator itself. -/
theorem crcOut_plain {v : CrcVariant} (c : Byte) (hr : v.refout = false) (hx : v.xorout = 0) : crcOut v c = c := by
  simp [crcOut, hr, hx]

/-- Both halves of `crc_out` undo themselves: the reflection, and the XOR with a constant. -/
theorem crcOut_bijective (v : CrcVariant) : Function.Bijective (crcOut v) := by
  have hxor : Function.Involutive (· ^^^ v.xorout) := fun c => by simp
  have hrev : Function.Involutive (if v.refout then rev8 else id) := by
    split
    · exact rev8_rev8
    · exact fun _ => rfl
  have hcomp : crcOut v = (· ^^^ v.xorout) ∘ (if v.refout then rev8 else id) := by
    funext c
    rw [crcOut, Function.comp_apply, ite_apply]
    rfl
  rw [hcomp]
  exact hxor.bijective.comp hrev.bijective

/-- Settles O9: by its bits, its plain case, and its two involutions. -/
theorem crcOutIsABijection : Obligations.CrcOutIsABijection :=
  ⟨fun v c _ h => getLsbD_crcOut v c h, fun _ c hr hx => crcOut_plain c hr hx, crcOut_bijective⟩

/-! ## Reading `CRC` -/

/-- `CRC` shows `crc_out(acc)` with zeros above its low byte (R30). -/
theorem windowWord_crc (v : CrcVariant) (s : State) : windowWord v s 0x08 = (crcOut v s.acc).setWidth 32 :=
  windowWord_reg v s .crc

theorem windowWord_crc_above (v : CrcVariant) (s : State) : (windowWord v s 0x08).extractLsb' 8 24 = 0 := by
  apply BitVec.eq_of_getLsbD_eq
  intro i hi
  rw [windowWord_crc, BitVec.getLsbD_extractLsb', BitVec.getLsbD_setWidth, BitVec.getLsbD_of_ge _ _ (by omega)]
  simp

/-! ## Illegal neighbours of a command -/

/-- A command without operands has `KIND`, `IMM8` and `RSV` zero (R72, R73). -/
theorem runsAsIllegal_of_noOperand {w : Word} (hop : OP w = 0 ∨ OP w = 1 ∨ OP w = 3)
    (h : KIND w ≠ 0 ∨ IMM8 w ≠ 0 ∨ RSV w ≠ 0) : RunsAsIllegal w := by
  refine runsAsIllegal_of_not_legalWord fun hl => ?_
  obtain ⟨rsv, -, kindCase, immCase⟩ := (legalWord_iff w).mp hl
  have kind : KIND w = 0 := kindCase.resolve_right (by obtain op | op | op := hop <;> rw [op] <;> decide)
  have imm : IMM8 w = 0 := immCase.resolve_right (by obtain op | op | op := hop <;> rw [op] <;> decide)
  exact h.elim (· kind) (·.elim (· imm) (· rsv))

/-- A command with its operand in `IMM8` has `KIND` and `RSV` zero (R72, R73). -/
theorem runsAsIllegal_of_immOperand {w : Word} (hop : OP w = 2 ∨ OP w = 4 ∨ OP w = 7)
    (h : KIND w ≠ 0 ∨ RSV w ≠ 0) : RunsAsIllegal w := by
  refine runsAsIllegal_of_not_legalWord fun hl => ?_
  obtain ⟨rsv, -, kindCase, -⟩ := (legalWord_iff w).mp hl
  have kind : KIND w = 0 := kindCase.resolve_right (by obtain op | op | op := hop <;> rw [op] <;> decide)
  exact h.elim (· kind) (· rsv)

/-! ## CRC_INIT and CRC_BYTE -/

/-- Settles O14: the illegal neighbours by `runsAsIllegal_of_noOperand`, the next state by `crcInit_eq`, the reads by
`windowWord_crc` and `windowByte_crc`. -/
theorem crcInitStartsTheAccumulator : Obligations.CrcInitStartsTheAccumulator := by
  refine ⟨decode_encode .crcInit, fun w hop => runsAsIllegal_of_noOperand (.inr (.inl hop)), fun s => ?next, fun s => ?setA⟩
  case next => exact ⟨_, exec_crcInit s, crcInit_eq V s, windowWord_crc V _, windowByte_crc V _⟩
  case setA =>
    rw [windowWord_crc, crcOut_plain _ rfl rfl]
    exact BitVec.setWidth_zero 32 8

/-- Settles O15: the illegal neighbours by `runsAsIllegal_of_immOperand`, the next state by `crcByte_eq`, the reads by
`windowByte_crc`; the examples run. -/
theorem crcByteFeedsTheAccumulator : Obligations.CrcByteFeedsTheAccumulator := by
  refine ⟨fun b => decode_encode (.crcByte b), fun w hop => runsAsIllegal_of_immOperand (.inl hop),
    fun b s => ⟨_, exec_crcByte b s, crcByte_eq V b s⟩, fun b => ⟨_, exec_crcByte b _, windowByte_crc V _⟩,
    by decide +kernel, fun s => ?_⟩
  have hcrc : crc8 (illustrative .a).crc [0x31, 0x32, 0x33] = 0xC0 := by decide +kernel
  refine ⟨?_, hcrc⟩
  simpa only [windowByte_crc, crcByte_eq, crcInit_eq, crc8_eq_out_fold, crcFold_cons, crcFold_nil] using hcrc

/-! ## The command sequence `CRC8 B` -/

/-- The bytes of a run of `CRC_BYTE` are folded into the accumulator. `ERR` is written by each of them, so an empty run keeps
it. -/
theorem runCommands_crcBytes (B : List Byte) (s : State) :
    runCommands (B.map .crcByte) s =
      .next { s with acc := crcFold V s.acc B, err := if B = [] then s.err else 0 } := by
  induction B generalizing s with
  | nil => rfl
  | cons b B ih =>
    rw [List.map_cons, runCommands_cons, exec_crcByte, andThen_next, ih, crcByte_eq, ite_self, if_neg (List.cons_ne_nil b B),
      crcFold_cons]

theorem runCommands_crc8Commands (B : List Byte) (s : State) :
    runCommands (crc8Commands B) s = .next { s with acc := crcFold V V.init B, err := 0 } := by
  rw [crc8Commands, runCommands_cons, exec_crcInit, andThen_next, runCommands_crcBytes, crcInit_eq, ite_self]

/-- Settles O16: `runCommands_crc8Commands` gives the whole next state, and `CRC` reads `crc_out` of the fold in it. -/
theorem accumulatorAgreesWithThePureFunction : Obligations.AccumulatorAgreesWithThePureFunction :=
  ⟨fun B s => ⟨_, runCommands_crc8Commands B s, rfl, windowWord_crc V _⟩,
    fun s => ⟨windowByte_crc V s, windowWord_crc_above V s⟩⟩

end Sys2Proof.Proofs
end

section
/-! PROOFS of the family 41_frame_codec.md, the single commands: dispatch (R120), the reply check (R123), and what NOP, RX_CLEAR,
ENCODE, DECODE and FIELD do (R121, R124, R126 to R128). -/

namespace Sys2Proof.Proofs

open Sys2Proof Sys2Proof.Machine Sys2Proof.Stated Sys2Proof.Laws

/-! ## Dispatch (R120) -/

/-- Encoding the command R120 selects gives back a word's fields when those it does not use are zero. -/
theorem encode_commandOf_fields {op kind : BitVec 4} {imm : Byte} (hop : op.toNat ≤ 7)
    (hkind : kind = 0 ∨ op = 5 ∨ op = 6) (himm : imm = 0 ∨ op = 2 ∨ op = 4 ∨ op = 7) :
    encode (commandOf op kind imm) = commandWord op kind imm := by
  obtain rfl | rfl | rfl | rfl | rfl | rfl | rfl | rfl | h := op_cases op
  case inr.inr.inr.inr.inr.inr.inr.inr => omega
  all_goals simp_all [commandOf, encode]

/-- A legal word is the word of the command R120 selects for it. -/
theorem encode_commandOf {w : Word} (h : legalWord w = true) : encode (commandOf (OP w) (KIND w) (IMM8 w)) = w := by
  obtain ⟨rsv, op, kind, imm⟩ := (legalWord_iff w).mp h
  exact (encode_commandOf_fields op kind imm).trans (commandWord_of_fields rsv)

theorem runCommand_legal {w : Word} (h : legalWord w = true) (s : State) :
    runCommand w s = exec (commandOf (OP w) (KIND w) (IMM8 w)) s := by
  conv_lhs => rw [← encode_commandOf h]
  exact runCommand_encode _ s

theorem commandOf_ne_nop {op : BitVec 4} (h : op ≠ 0) (kind : BitVec 4) (imm : Byte) : commandOf op kind imm ≠ .nop := by
  unfold commandOf
  split
  case h_1 h0 => exact absurd (BitVec.eq_of_toNat_eq h0) h
  all_goals exact Instr.noConfusion

/-- Every command but NOP overwrites `ERR` without looking at it. -/
theorem exec_set_err {i : Instr} (hi : i ≠ .nop) (s : State) (e : BitVec 4) : exec i { s with err := e } = exec i s := by
  cases i with
  | nop => exact absurd rfl hi
  | crcInit => rfl
  | crcByte b => rfl
  | rxClear => rfl
  | rxPush b =>
    rw [exec_rxPush, exec_rxPush]
    by_cases h : s.rxlen.toNat < 37
    · rw [rxPush_of_lt b h, rxPush_of_lt b (s := { s with err := e }) h]
    · rw [rxPush_of_full b h, rxPush_of_full b (s := { s with err := e }) h]
  | encode k =>
    rw [exec_encode, exec_encode]
    cases h : requestOfCode k with
    | none => rw [encodeFrame_of_none P _ h, encodeFrame_of_none P _ h]
    | some K => rw [(requestOfCode_eq_some_iff k K).mp h, encodeFrame_request, encodeFrame_request]
  | decode k =>
    refine congrArg Host.Outcome.next ?_
    obtain ⟨h, hs⟩ | ⟨K, rfl, ⟨hl, hs⟩ | ⟨ho, hl, ⟨hc, hs⟩ | ⟨hc, hs⟩⟩⟩ := decodeReply_cases V k s <;> rw [hs]
    · exact decodeReply_badKind V _ h
    · exact decodeReply_length V K hl
    · exact decodeReply_checksum V K ho hl hc
    · exact decodeReply_ok V K ho hl hc
  | field sel =>
    refine congrArg Host.Outcome.next ?_
    obtain ⟨h, hs⟩ | ⟨h, hf, hs⟩ | ⟨x, h, hf, hs⟩ := selectField_cases P.rtcBits sel s <;> rw [hs]
    · exact selectField_noRecord P.rtcBits sel h
    · exact selectField_badField P.rtcBits h hf
    · exact selectField_value P.rtcBits h hf

/-- Settles O5: a legal word is the word of the command R120 selects (`runCommand_legal`), and every command but NOP overwrites
`ERR` (`exec_set_err`). -/
theorem executeDispatchesOnTheWord : Obligations.ExecuteDispatchesOnTheWord := by
  refine ⟨busWrite_cmd, fun w h => ?illegal, fun w s h => runCommand_legal h s, fun w s e h hop => ?err⟩
  case illegal => exact runsAsIllegal_of_not_legalWord (by simp [h])
  case err => rw [runCommand_legal h, runCommand_legal h, exec_set_err (commandOf_ne_nop hop _ _)]

/-- Settles O18: the word 0 is the word of NOP, and a nonzero word with `OP` 0 has a nonzero field that NOP does not use. -/
theorem nopChangesNothing : Obligations.NopChangesNothing := by
  refine ⟨decode_encode .nop, exec_nop, fun w hop hw => ?_⟩
  refine runsAsIllegal_of_noOperand (.inl hop) ?_
  by_contra hzero
  simp only [not_or, not_not] at hzero
  obtain ⟨kind, imm, rsv⟩ := hzero
  refine hw ((commandWord_of_fields rsv).symm.trans ?_)
  rw [show opOf w = 0 from hop, show kindOf w = 0 from kind, show immOf w = 0 from imm]
  rfl

/-! ## The reply check (R123) -/

/-- Settles O20: `checkReply_of_none` for a kind without a reply, `checkReply_reply` for each of the three others. -/
theorem checkReplyTestsKindThenLengthThenChecksum : Obligations.CheckReplyTestsKindThenLengthThenChecksum := by
  refine fun v k n ovf B => ⟨fun h3 h4 h5 => ?none, fun L hL => ?some⟩
  case none => exact checkReply_of_none v n ovf B ((replyOfCode_eq_none_iff k).mpr ⟨h3, h4, h5⟩)
  case some =>
    simp only [List.mem_cons, Prod.mk.injEq, List.not_mem_nil, or_false] at hL
    obtain ⟨rfl, rfl⟩ | ⟨rfl, rfl⟩ | ⟨rfl, rfl⟩ := hL
    · exact checkReply_reply v .getVersion n ovf B
    · exact checkReply_reply v .getHousekeeping n ovf B
    · exact checkReply_reply v .generic n ovf B

/-! ## RX_CLEAR (R124) -/

/-- Settles O21: the next state by `rxClear_eq`, which holds no record, so FIELD ends as in `selectField_noRecord`. -/
theorem rxClearEmptiesTheReplyBuffer : Obligations.RxClearEmptiesTheReplyBuffer := by
  refine ⟨decode_encode .rxClear, fun w hop => runsAsIllegal_of_noOperand (.inr (.inr hop)), fun s => ?next,
    by decide +kernel⟩
  refine ⟨_, exec_rxClear s, rxClear_eq s, bufByte_replicate, fun sel => ?_⟩
  rw [exec_field, selectField_noRecord P.rtcBits sel (s := rxClear s) rfl]

/-! ## ENCODE (R126) -/

/-- A command with its operand in `KIND` has `IMM8` and `RSV` zero (R72, R73). -/
theorem runsAsIllegal_of_kindOperand {w : Word} (hop : OP w = 5 ∨ OP w = 6)
    (h : IMM8 w ≠ 0 ∨ RSV w ≠ 0) : RunsAsIllegal w := by
  refine runsAsIllegal_of_not_legalWord fun hl => ?_
  obtain ⟨rsv, -, -, immCase⟩ := (legalWord_iff w).mp hl
  have imm : IMM8 w = 0 := immCase.resolve_right (by obtain op | op := hop <;> rw [op] <;> decide)
  exact h.elim (· imm) (· rsv)

/-- The word of a command with its operand in `KIND` only, without the zero `IMM8`. -/
theorem commandWord_kind (op kind : BitVec 4) :
    commandWord op kind 0 = (op.setWidth 32 <<< 12) ||| (kind.setWidth 32 <<< 8) := by
  simp [commandWord]

theorem bufByte_bufOf_of_length_le (l : List Byte) {i : Nat} (h : l.length ≤ i) : bufByte (bufOf l) i = 0 := by
  rw [bufByte_bufOf, List.getD_eq_default l 0 h, ite_self]

/-- Settles O23: the next state by `encodeFrame_request` and `encodeFrame_of_none`; the state ENCODE leaves already holds the
frame that encoding again writes. -/
theorem encodeBuildsTheRequestFrame : Obligations.EncodeBuildsTheRequestFrame := by
  refine ⟨fun k => ?word, fun w hop => runsAsIllegal_of_kindOperand (.inl hop), fun k s => ?frame, fun k s h => ?badKind,
    fun s => ?setA⟩
  case word => exact (congrArg decode (commandWord_kind 5 k)).symm.trans (decode_encode (.encode k))
  case frame =>
    have himage : bufPrefix (bufOf (reqImage P k)) k.len = reqImage P k := by
      have := bufPrefix_bufOf (l := reqImage P k) (by rw [reqImage_length]; exact (requestLen_le k).2)
      rwa [reqImage_length] at this
    rw [exec_encode, encodeFrame_request]
    refine ⟨_, rfl, rfl, txlen_toNat k, himage, fun i hi => ?tail, ?again⟩
    case tail => exact bufByte_bufOf_of_length_le _ (by rwa [reqImage_length])
    case again => rw [exec_encode, encodeFrame_request]
  case badKind => rw [exec_encode, encodeFrame_of_none P s ((requestOfCode_eq_none_iff k).mpr h)]
  case setA =>
    have himage : bufPrefix (bufOf (reqImage (illustrative .a) .reset)) 3 = [0x20, 0x00, 0xAE] := by decide +kernel
    rw [show (1 : BitVec 4) = requestCode .reset from rfl, encodeFrame_request]
    exact ⟨rfl, himage, by decide +kernel⟩

/-! ## DECODE (R127) -/

/-- DECODE reads nothing that it writes, so it ends the second time as it did the first. -/
theorem decodeReply_decodeReply (v : CrcVariant) (k : BitVec 4) (s : State) :
    decodeReply v k (decodeReply v k s) = decodeReply v k s := by
  obtain ⟨h, hs⟩ | ⟨K, rfl, ⟨hl, hs⟩ | ⟨ho, hl, ⟨hc, hs⟩ | ⟨hc, hs⟩⟩⟩ := decodeReply_cases v k s <;> rw [hs]
  · exact decodeReply_badKind v _ h
  · exact decodeReply_length v K hl
  · exact decodeReply_checksum v K ho hl hc
  · exact decodeReply_ok v K ho hl hc

/-- Settles O24: one lemma for each of the four ways `DECODE` ends, and `decodeReply_decodeReply`. -/
theorem decodeValidatesTheReply : Obligations.DecodeValidatesTheReply := by
  refine ⟨fun k => ?word, fun w hop => runsAsIllegal_of_kindOperand (.inr hop), fun k s h3 h4 h5 => ?badKind,
    fun K s h => ?length, fun K s ho hl hc => ?checksum, fun K s ho hl hc => ?ok, fun k s => ⟨_, exec_decode k s, ?again⟩,
    by decide +kernel⟩
  case word => exact (congrArg decode (commandWord_kind 6 k)).symm.trans (decode_encode (.decode k))
  case badKind => rw [exec_decode, decodeReply_badKind V s ((replyOfCode_eq_none_iff k).mpr ⟨h3, h4, h5⟩)]
  case length => rw [exec_decode, decodeReply_length V K h]
  case checksum => rw [exec_decode, decodeReply_checksum V K ho hl hc]
  case ok => rw [exec_decode, decodeReply_ok V K ho hl hc]
  case again => rw [exec_decode, decodeReply_decodeReply]

/-! ## FIELD (R128) -/

theorem exec_field_noRecord (sel : Byte) {s : State} (h : s.recValid = false) :
    exec (.field sel) s = .next { s with field := 0, err := 5 } := by
  rw [exec_field, selectField_noRecord P.rtcBits sel h]

/-- Settles O25: one lemma for each of the three ways `FIELD` ends. -/
theorem fieldReadsTheValidatedRecord : Obligations.FieldReadsTheValidatedRecord := by
  refine ⟨fun sel => decode_encode (.field sel), fun w hop => runsAsIllegal_of_immOperand (.inr (.inr hop)),
    fun sel s h => exec_field_noRecord sel h, fun sel s h hf => ?badField, fun sel s x h hf => ?value, by decide +kernel⟩
  case badField => rw [exec_field, selectField_badField P.rtcBits h hf]
  case value => rw [exec_field, selectField_value P.rtcBits h hf]

end Sys2Proof.Proofs
end

section
/-! PROOFS of the family 41_frame_codec.md: that one flipped bit changes the checksum (R103 item 3), which DECODE relies on (R131). The
key fact is that a single bit is never shifted out altogether while the polynomial is not 0. -/

namespace Sys2Proof.Proofs

open Sys2Proof Sys2Proof.Machine Sys2Proof.Stated Sys2Proof.Laws

/-! ## One shift of the CRC register -/

theorem crcShift_eq (v : CrcVariant) (d : Byte) : crcShift v d = d <<< 1 ^^^ if d.getLsbD 7 then v.poly else 0 := by
  unfold crcShift
  split <;> simp

theorem crcShift_xor (v : CrcVariant) (a b : Byte) : crcShift v (a ^^^ b) = crcShift v a ^^^ crcShift v b := by
  have hpoly (p q : Bool) : (if p ^^ q then v.poly else 0) = (if p then v.poly else 0) ^^^ if q then v.poly else 0 := by
    cases p <;> cases q <;> simp
  simp only [crcShift_eq, BitVec.shiftLeft_xor_distrib, BitVec.getLsbD_xor, hpoly]
  ac_rfl

theorem iterate_crcShift_xor (v : CrcVariant) (n : Nat) (a b : Byte) :
    (crcShift v)^[n] (a ^^^ b) = (crcShift v)^[n] a ^^^ (crcShift v)^[n] b := by
  induction n generalizing a b with
  | zero => rfl
  | succ n ih => rw [Function.iterate_succ_apply, crcShift_xor, ih]; rfl

theorem iterate_crcShift_zero (v : CrcVariant) (n : Nat) : (crcShift v)^[n] 0 = 0 :=
  Function.iterate_fixed rfl n

theorem iterate_crcShift_one (v : CrcVariant) {j : Nat} (h : j < 8) : (crcShift v)^[j] 1 = 1#8 <<< j := by
  induction j with
  | zero => rfl
  | succ j ih =>
    have htop : (1#8 <<< j).getLsbD 7 = false := by simp; omega
    rw [Function.iterate_succ_apply', ih (by omega), crcShift_eq, htop, BitVec.shiftLeft_add]
    simp

theorem iterate_crcShift_eight (v : CrcVariant) : (crcShift v)^[8] 1 = v.poly := by
  rw [Function.iterate_succ_apply', iterate_crcShift_one v (by omega), crcShift_eq]
  simp

/-- Horner's rule on the bits of a byte: the upper seven are shifted into place without the polynomial. -/
theorem crcShift_half_xor (v : CrcVariant) (d : Byte) :
    crcShift v (d >>> 1) ^^^ (if d.getLsbD 0 then 1 else 0) = d := by
  have htop : (d >>> 1).getLsbD 7 = false := by simp
  rw [crcShift_eq, htop]
  apply BitVec.eq_of_getLsbD_eq
  intro i hi
  rw [BitVec.getLsbD_xor, apply_ite (BitVec.getLsbD · i)]
  interval_cases i <;> simp

/-- If the shifts run bit 0 out, they run every byte out. -/
theorem iterate_crcShift_eq_zero {v : CrcVariant} {N : Nat} (hN : (crcShift v)^[N] 1 = 0) (k : Nat) :
    ∀ d : Byte, d.toNat < 2 ^ k → (crcShift v)^[N] d = 0 := by
  induction k with
  | zero =>
    intro d hd
    rw [show d = 0 from BitVec.eq_of_toNat_eq (by simpa using hd), iterate_crcShift_zero]
  | succ k ih =>
    intro d hd
    have hhalf : (crcShift v)^[N] (d >>> 1) = 0 := ih _ (by simp [Nat.shiftRight_eq_div_pow]; omega)
    have hbit : (crcShift v)^[N] (if d.getLsbD 0 then 1 else 0) = 0 := by
      split
      · exact hN
      · exact iterate_crcShift_zero v N
    rw [← crcShift_half_xor v d, iterate_crcShift_xor, hbit, ← Function.iterate_succ_apply, Function.iterate_succ_apply',
      hhalf]
    simp [crcShift_eq]

/-- If bit 0 outlives `n` shifts but not `n + 1`, then a byte of `k` bits that is not 0 outlives `n + 1 - k` shifts: its lowest
set bit is left when the bits above it are gone. -/
theorem eq_zero_of_iterate_crcShift_eq_zero {v : CrcVariant} {n : Nat} (h1 : (crcShift v)^[n] 1 ≠ 0)
    (hn : (crcShift v)^[n + 1] 1 = 0) (k : Nat) :
    ∀ (m : Nat) (d : Byte), m + k ≤ n + 1 → d.toNat < 2 ^ k → (crcShift v)^[m] d = 0 → d = 0 := by
  induction k with
  | zero => exact fun m d _ hd _ => BitVec.eq_of_toNat_eq (by simpa using hd)
  | succ k ih =>
    intro m d hm hd h0
    have hsplit := crcShift_half_xor v d
    have hlow : d.getLsbD 0 = false := by
      by_contra hset
      rw [Bool.not_eq_false] at hset
      refine h1 ?_
      have hdn : (crcShift v)^[n] d = 0 := by
        rw [show n = n - m + m by omega, Function.iterate_add_apply, h0, iterate_crcShift_zero]
      rw [← hsplit, hset, iterate_crcShift_xor, ← Function.iterate_succ_apply,
        iterate_crcShift_eq_zero hn 8 (d >>> 1) (d >>> 1).isLt] at hdn
      simpa using hdn
    have hd2 : crcShift v (d >>> 1) = d := by
      rw [hlow] at hsplit
      simpa using hsplit
    have hhalf : d >>> 1 = 0 := by
      refine ih (m + 1) (d >>> 1) (by omega) (by simp [Nat.shiftRight_eq_div_pow]; omega) ?_
      rw [Function.iterate_succ_apply, hd2, h0]
    rw [← hd2, hhalf]
    rfl

/-- With a polynomial other than 0, bit 0 leaves a rest after any number of shifts: if shift `n + 1` were the first to leave none,
the polynomial, which is what eight shifts leave, would be gone `n - 7` shifts later, and so be 0. -/
theorem iterate_crcShift_one_ne_zero {v : CrcVariant} (hpoly : v.poly ≠ 0) (n : Nat) : (crcShift v)^[n] 1 ≠ 0 := by
  induction n with
  | zero => exact (by decide : (1 : Byte) ≠ 0)
  | succ n ih =>
    intro hn
    obtain hlt | hge := Nat.lt_or_ge n 7
    · rw [iterate_crcShift_one v (by omega)] at hn
      interval_cases n <;> exact absurd hn (by decide)
    · refine hpoly (eq_zero_of_iterate_crcShift_eq_zero ih hn 8 (n - 7) v.poly (by omega) v.poly.isLt ?_)
      rw [← iterate_crcShift_eight, ← Function.iterate_add_apply, show n - 7 + 8 = n + 1 by omega, hn]

/-! ## A flipped bit in the CRC -/

theorem crcUpdate_xor (v : CrcVariant) (c c' b : Byte) :
    crcUpdate v c b ^^^ crcUpdate v c' b = (crcShift v)^[8] (c ^^^ c') := by
  rw [crcUpdate, crcUpdate, ← iterate_crcShift_xor]
  congr 1
  simp [BitVec.xor_assoc]

/-- A difference in the register is shifted on by the bytes that follow, whatever they are. -/
theorem crcFold_xor (v : CrcVariant) (c c' : Byte) (M : List Byte) :
    crcFold v c M ^^^ crcFold v c' M = (crcShift v)^[8 * M.length] (c ^^^ c') := by
  induction M generalizing c c' with
  | nil => rfl
  | cons b M ih =>
    rw [crcFold_cons, crcFold_cons, ih, crcUpdate_xor, ← Function.iterate_add_apply, List.length_cons, Nat.mul_succ]

theorem rev8_xor (a b : Byte) : rev8 (a ^^^ b) = rev8 a ^^^ rev8 b := by
  apply BitVec.eq_of_getLsbD_eq
  intro i hi
  rw [getLsbD_rev8 _ hi, BitVec.getLsbD_xor, BitVec.getLsbD_xor, getLsbD_rev8 _ hi, getLsbD_rev8 _ hi]

theorem rev8_bit {j : Nat} (h : j < 8) : rev8 (1#8 <<< j) = 1#8 <<< (7 - j) := by
  interval_cases j <;> decide

/-- Flipping a bit of a byte flips one bit of what is fed into the register. -/
theorem crcUpdate_flip (v : CrcVariant) (c b : Byte) {j : Nat} (h : j < 8) :
    ∃ n, crcUpdate v c (b ^^^ 1#8 <<< j) ^^^ crcUpdate v c b = (crcShift v)^[n] 1 := by
  have hcancel (x d : Byte) : c ^^^ (x ^^^ d) ^^^ (c ^^^ x) = d := by
    rw [← BitVec.xor_assoc c, BitVec.xor_comm (c ^^^ x), BitVec.xor_assoc, BitVec.xor_self, BitVec.xor_zero]
  unfold crcUpdate
  rw [← iterate_crcShift_xor]
  split
  · rw [rev8_xor, rev8_bit h, hcancel, ← iterate_crcShift_one v (by omega), ← Function.iterate_add_apply]
    exact ⟨_, rfl⟩
  · rw [hcancel, ← iterate_crcShift_one v h, ← Function.iterate_add_apply]
    exact ⟨_, rfl⟩

/-- With one bit of `M` flipped the register differs by a single bit, shifted some number of times. -/
theorem crcFold_flipBit (v : CrcVariant) (c : Byte) {M : List Byte} {i j : Nat} (hi : i < M.length) (hj : j < 8) :
    ∃ n, crcFold v c (flipBit M i j) ^^^ crcFold v c M = (crcShift v)^[n] 1 := by
  induction M generalizing c i with
  | nil => exact absurd hi (Nat.not_lt_zero i)
  | cons b M ih =>
    cases i with
    | zero =>
      obtain ⟨n, hn⟩ := crcUpdate_flip v c b hj
      refine ⟨8 * M.length + n, ?_⟩
      rw [Function.iterate_add_apply, ← hn]
      exact crcFold_xor v _ _ M
    | succ i => exact ih (crcUpdate v c b) (Nat.lt_of_succ_lt_succ hi)

/-- The checksum detects every single flipped bit (R103 item 3). -/
theorem crc8_flipBit_ne {v : CrcVariant} (hpoly : v.poly ≠ 0) {M : List Byte} {i j : Nat} (hi : i < M.length)
    (hj : j < 8) : crc8 v (flipBit M i j) ≠ crc8 v M := by
  intro heq
  obtain ⟨n, hn⟩ := crcFold_flipBit v v.init hi hj
  have hfold : crcFold v v.init (flipBit M i j) = crcFold v v.init M := (crcOut_bijective v).injective heq
  rw [hfold, BitVec.xor_self] at hn
  exact iterate_crcShift_one_ne_zero hpoly n hn.symm

end Sys2Proof.Proofs
end

section
/-! PROOFS of the family 41_frame_codec.md, sequences of commands: what moves the reply side that DECODE reads, RX_PUSH with its
overflow (R125), replies of a wrong length or with a flipped bit (R130, R131), failed decodes (R132) and the independence of
transactions (R133). -/

namespace Sys2Proof.Proofs

open Sys2Proof Sys2Proof.Machine Sys2Proof.Stated Sys2Proof.Laws

/-! ## The reply side of the block -/

/-- What DECODE reads of the block: `RXBUF`, `RXLEN` and `RXOVF` (R127). -/
def replySide (s : State) : Buffer × BitVec 6 × Bool := (s.rxbuf, s.rxlen, s.rxovf)

theorem replySide_eq_iff {s t : State} :
    replySide s = replySide t ↔ s.rxbuf = t.rxbuf ∧ s.rxlen = t.rxlen ∧ s.rxovf = t.rxovf := by
  simp only [replySide, Prod.mk.injEq]

theorem rxPush_congr (b : Byte) {s t : State} (h : replySide s = replySide t) :
    replySide (rxPush b s) = replySide (rxPush b t) := by
  obtain ⟨hbuf, hlen, hovf⟩ := replySide_eq_iff.mp h
  by_cases hl : s.rxlen.toNat < 37
  · rw [rxPush_of_lt b hl, rxPush_of_lt b (hlen ▸ hl)]
    simp only [replySide, hbuf, hlen, hovf]
  · rw [rxPush_of_full b hl, rxPush_of_full b (hlen ▸ hl)]
    simp only [replySide, hbuf, hlen]

theorem pushAll_congr (B : List Byte) {s t : State} (h : replySide s = replySide t) :
    replySide (pushAll B s) = replySide (pushAll B t) := by
  induction B generalizing s t with
  | nil => exact h
  | cons b B ih => exact ih (rxPush_congr b h)

theorem pushAll_append (A B : List Byte) (s : State) : pushAll (A ++ B) s = pushAll B (pushAll A s) :=
  List.foldl_append

/-! ## What DECODE leaves -/

theorem replySide_decodeReply (v : CrcVariant) (k : BitVec 4) (s : State) :
    replySide (decodeReply v k s) = replySide s := by
  obtain ⟨-, hs⟩ | ⟨K, -, ⟨-, hs⟩ | ⟨-, -, ⟨-, hs⟩ | ⟨-, hs⟩⟩⟩ := decodeReply_cases v k s <;> rw [hs] <;> rfl

/-- DECODE reports the result of `check_reply`, and its record is valid exactly on OK (R127). -/
theorem decodeReply_record (v : CrcVariant) (k : BitVec 4) (s : State) :
    (decodeReply v k s).err = (checkReply v k s.rxlen s.rxovf s.rxbuf).code ∧
    (decodeReply v k s).recValid = decide (checkReply v k s.rxlen s.rxovf s.rxbuf = .none) ∧
    (decodeReply v k s).recKind = if checkReply v k s.rxlen s.rxovf s.rxbuf = .none then k else 0 := by
  unfold decodeReply
  cases checkReply v k s.rxlen s.rxovf s.rxbuf <;> exact ⟨rfl, rfl, rfl⟩

/-- The code and the record of DECODE depend on the kind and the reply side only. -/
theorem decodeReply_congr (v : CrcVariant) (k : BitVec 4) {s t : State} (h : replySide s = replySide t) :
    (decodeReply v k s).err = (decodeReply v k t).err ∧ (decodeReply v k s).recValid = (decodeReply v k t).recValid ∧
    (decodeReply v k s).recKind = (decodeReply v k t).recKind := by
  obtain ⟨hbuf, hlen, hovf⟩ := replySide_eq_iff.mp h
  obtain ⟨errs, valids, kinds⟩ := decodeReply_record v k s
  obtain ⟨errt, validt, kindt⟩ := decodeReply_record v k t
  rw [errs, valids, kinds, errt, validt, kindt, hbuf, hlen, hovf]
  exact ⟨rfl, rfl, rfl⟩

theorem errCode_eq_zero_iff (c : ErrCode) : c.code = 0 ↔ c = .none := by
  cases c <;> decide

/-- A record is valid after DECODE exactly when it reports NONE (R127). -/
theorem decodeReply_recValid_iff (v : CrcVariant) (k : BitVec 4) (s : State) :
    (decodeReply v k s).recValid = true ↔ (decodeReply v k s).err = 0 := by
  obtain ⟨err, valid, -⟩ := decodeReply_record v k s
  rw [err, valid, decide_eq_true_iff, errCode_eq_zero_iff]

/-! ## What the other commands leave -/

theorem replySide_encodeFrame (p : Params) (k : BitVec 4) (s : State) : replySide (encodeFrame p k s) = replySide s := by
  obtain ⟨K, -, hs⟩ | ⟨-, hs⟩ := encodeFrame_cases p k s <;> rw [hs] <;> exact replySide_eq_iff.mpr ⟨rfl, rfl, rfl⟩

theorem replySide_selectField (bits : RtcBits) (sel : Byte) (s : State) :
    replySide (selectField bits sel s) = replySide s := by
  obtain ⟨-, hs⟩ | ⟨-, -, hs⟩ | ⟨x, -, -, hs⟩ := selectField_cases bits sel s <;> rw [hs] <;>
    exact replySide_eq_iff.mpr ⟨rfl, rfl, rfl⟩

/-- Of the commands other than RX_CLEAR, only RX_PUSH moves the reply side, and it does so by the byte it pushes. -/
theorem exec_replySide {i : Instr} (hi : i ≠ .rxClear) (s : State) :
    ∃ t, exec i s = .next t ∧ replySide t = replySide (pushAll (pushedBytes [i]) s) := by
  cases i with
  | nop => exact ⟨_, rfl, rfl⟩
  | crcInit => exact ⟨_, rfl, rfl⟩
  | crcByte b => exact ⟨_, rfl, rfl⟩
  | rxClear => exact absurd rfl hi
  | rxPush b => exact ⟨_, exec_rxPush b s, rfl⟩
  | encode k => exact ⟨_, exec_encode k s, replySide_encodeFrame P k s⟩
  | decode k => exact ⟨_, exec_decode k s, replySide_decodeReply V k s⟩
  | field sel => exact ⟨_, exec_field sel s, replySide_selectField P.rtcBits sel s⟩

theorem pushedBytes_cons (i : Instr) (is : List Instr) : pushedBytes (i :: is) = pushedBytes [i] ++ pushedBytes is := by
  cases i <;> rfl

/-- A list of commands without RX_CLEAR leaves the reply side as its pushes alone do. -/
theorem runCommands_replySide {is : List Instr} (h : .rxClear ∉ is) (s : State) :
    ∃ t, runCommands is s = .next t ∧ replySide t = replySide (pushAll (pushedBytes is) s) := by
  induction is generalizing s with
  | nil => exact ⟨s, rfl, rfl⟩
  | cons i is ih =>
    rw [List.mem_cons, not_or] at h
    obtain ⟨hi, his⟩ := h
    obtain ⟨u, hu, hpush⟩ := exec_replySide (Ne.symm hi) s
    obtain ⟨t, ht, hrest⟩ := ih his u
    refine ⟨t, by rw [runCommands_cons, hu, andThen_next, ht], ?_⟩
    rw [hrest, pushedBytes_cons, pushAll_append]
    exact pushAll_congr _ hpush

/-- Only DECODE makes a record valid (R28). -/
theorem exec_keeps_noRecord {i : Instr} (hi : ∀ k, i ≠ .decode k) {s : State} (h : s.recValid = false) :
    ∃ t, exec i s = .next t ∧ t.recValid = false := by
  cases i with
  | nop => exact ⟨_, rfl, h⟩
  | crcInit => exact ⟨_, rfl, h⟩
  | crcByte b => exact ⟨_, rfl, h⟩
  | rxClear => exact ⟨_, rfl, rfl⟩
  | rxPush b => exact ⟨_, rfl, by rw [rxPush_frame]⟩
  | encode k =>
    refine ⟨_, exec_encode k s, ?_⟩
    obtain ⟨K, -, hs⟩ | ⟨-, hs⟩ := encodeFrame_cases P k s <;> rw [hs] <;> exact h
  | decode k => exact absurd rfl (hi k)
  | field sel => exact ⟨_, exec_field_noRecord sel h, h⟩

/-- Settles O37: DECODE reports a code and makes a record as `check_reply` answers on the reply side, which it keeps; no other
command makes a record (`exec_keeps_noRecord`). -/
theorem aFailedDecodeLeavesNoRecord : Obligations.AFailedDecodeLeavesNoRecord := by
  refine ⟨fun k s => ⟨_, exec_decode k s, fun herr => ⟨?noRecord, fun u hbuf hlen hovf => ⟨_, exec_decode k u, ?again⟩⟩⟩,
    fun sel s h => exec_field_noRecord sel h, fun i s h => ?onlyDecode⟩
  case noRecord => exact Bool.eq_false_iff.mpr (mt (decodeReply_recValid_iff V k s).mp herr)
  case again =>
    have hside : replySide u = replySide (decodeReply V k s) := replySide_eq_iff.mpr ⟨hbuf, hlen, hovf⟩
    exact (decodeReply_congr V k (hside.trans (replySide_decodeReply V k s))).1
  case onlyDecode =>
    by_cases hd : ∃ k, i = .decode k
    · obtain ⟨k, rfl⟩ := hd
      exact ⟨_, exec_decode k s, fun hv => ⟨(decodeReply_recValid_iff V k s).mp hv, k, rfl⟩⟩
    · obtain ⟨t, ht, hv⟩ := exec_keeps_noRecord (fun k hk => hd ⟨k, hk⟩) h
      exact ⟨t, ht, fun h1 => by simp [hv] at h1⟩

/-! ## RX_PUSH (R125) -/

/-- A full buffer that has overflowed takes no byte. -/
theorem replySide_rxPush_of_overflowed (b : Byte) {s : State} (hlen : s.rxlen = 37) (hovf : s.rxovf = true) :
    replySide (rxPush b s) = replySide s := by
  rw [rxPush_of_full b (by rw [hlen]; decide)]
  exact replySide_eq_iff.mpr ⟨rfl, rfl, hovf.symm⟩

theorem replySide_pushAll_of_overflowed (B : List Byte) {s : State} (hlen : s.rxlen = 37) (hovf : s.rxovf = true) :
    replySide (pushAll B s) = replySide s := by
  induction B with
  | nil => rfl
  | cons b B ih => rw [pushAll_cons, pushAll_congr B (replySide_rxPush_of_overflowed b hlen hovf), ih]

/-- A push to a full buffer leaves `STATUS` with RX_OVERFLOW and `RXOVF` alone. -/
theorem statusWord_rxPush_of_full (b : Byte) {s : State} (h : s.rxlen = 37) :
    (rxPush b s).rxlen = 37 ∧ statusWord (rxPush b s) = 0x24 := by
  rw [rxPush_of_full b (by rw [h]; decide)]
  exact ⟨h, by simp [statusWord]⟩

/-- Settles O22: the next states by `rxPush_of_lt` and `rxPush_of_full`; an overflowed buffer takes no byte, so DECODE finds the
overflow; the 38 pushes are the 37 that fill the buffer and one more. -/
theorem rxPushAppendsOrOverflows : Obligations.RxPushAppendsOrOverflows := by
  refine ⟨fun b => decode_encode (.rxPush b), fun w hop => runsAsIllegal_of_immOperand (.inr (.inl hop)),
    fun b s h => ⟨_, exec_rxPush b s, ?room⟩, fun b s h => ?full, fun i s hlen hovf hi => ?overflowed, fun s => ?run⟩
  case room =>
    obtain ⟨len, -, bytes⟩ := rxPush_reply b (Nat.le_of_lt h)
    refine ⟨?_, by omega, fun i => ?_⟩
    · rw [rxPush_of_lt b h]
    · rw [bytes i]
      exact if_congr (by omega) rfl rfl
  case full => rw [exec_rxPush, rxPush_of_full b (by rw [h]; decide)]
  case overflowed =>
    obtain ⟨t, ht, hside⟩ := exec_replySide hi s
    obtain ⟨tbuf, tlen, tovf⟩ := replySide_eq_iff.mp (hside.trans (replySide_pushAll_of_overflowed _ hlen hovf))
    refine ⟨t, ht, tlen.trans hlen, tovf.trans hovf, tbuf, ?push, ?reply, ?badKind⟩
    case push =>
      rintro b rfl
      obtain rfl : rxPush b s = t := Host.Outcome.next.inj ht
      rw [rxPush_of_full b (by rw [hlen]; decide)]
    case reply =>
      rintro K rfl
      obtain rfl : decodeReply V (replyCode K) s = t := Host.Outcome.next.inj ht
      rw [decodeReply_length V K (.inl hovf)]
    case badKind =>
      rintro k h3 h4 h5 rfl
      obtain rfl : decodeReply V k s = t := Host.Outcome.next.inj ht
      rw [decodeReply_badKind V s ((replyOfCode_eq_none_iff k).mpr ⟨h3, h4, h5⟩)]
  case run =>
    have hfull : (pushAll (List.replicate 37 0) (rxClear s)).rxlen = 37 := by
      apply BitVec.eq_of_toNat_eq
      rw [(rxLoad_reply (List.replicate 37 0) s).1, List.length_replicate]
      rfl
    have hrun := runCommands_rxLoad (List.replicate 38 0) s
    have hlast : (List.replicate 38 0 : List Byte) = List.replicate 37 0 ++ [0] := List.replicate_succ'
    rw [rxLoadCommands, List.map_replicate, hlast, pushAll_append, pushAll_cons, pushAll_nil] at hrun
    exact ⟨_, hrun, statusWord_rxPush_of_full 0 hfull⟩

/-! ## RX_LOAD, then DECODE -/

theorem runCommands_load_decode (B : List Byte) (k : BitVec 4) (s : State) :
    runCommands (rxLoadCommands B ++ [.decode k]) s = .next (decodeReply V k (pushAll B (rxClear s))) := by
  rw [runCommands_append, runCommands_rxLoad, andThen_next, runCommands_cons, exec_decode, andThen_next, runCommands_nil]

theorem bufOf_take (l : List Byte) : bufOf (l.take 37) = bufOf l := by
  refine buffer_ext fun i => ?_
  rw [bufByte_bufOf, bufByte_bufOf]
  split
  · rw [List.getD_eq_getElem?_getD, List.getD_eq_getElem?_getD, List.getElem?_take_of_lt (by assumption)]
  · rfl

/-- Settles O35: by `rxLoad_reply`, a length other than the kind's is seen in `RXLEN`, or above 37 in `RXOVF`. -/
theorem wrongLengthIsALengthMismatch : Obligations.WrongLengthIsALengthMismatch := by
  intro K B s hB
  obtain ⟨len, ovf, buf⟩ := rxLoad_reply B s
  have hK := (replyLen_le K).2
  have hbad : (pushAll B (rxClear s)).rxovf = true ∨ (pushAll B (rxClear s)).rxlen.toNat ≠ K.len := by
    rw [len, ovf, decide_eq_true_iff]
    omega
  rw [runCommands_load_decode, decodeReply_length V K hbad]
  refine ⟨_, rfl, rfl, rfl, len, ?_, ovf⟩
  show bufPrefix (pushAll B (rxClear s)).rxbuf (pushAll B (rxClear s)).rxlen.toNat = B.take 37
  have hfront := bufPrefix_bufOf (l := B.take 37) (by simp)
  rwa [bufOf_take, List.length_take, Nat.min_comm, ← len, ← buf] at hfront

/-- What RX_LOAD leaves of a frame of the kind's length, as DECODE looks at it: the body, and its last byte. -/
theorem load_frame {K : ReplyKind} {body : List Byte} (c : Byte) (h : body.length + 1 = K.len) (s : State) :
    (pushAll (body ++ [c]) (rxClear s)).rxovf = false ∧
    (pushAll (body ++ [c]) (rxClear s)).rxlen.toNat = K.len ∧
    bufPrefix (pushAll (body ++ [c]) (rxClear s)).rxbuf (K.len - 1) = body ∧
    bufByte (pushAll (body ++ [c]) (rxClear s)).rxbuf (K.len - 1) = c := by
  obtain ⟨len, ovf, buf⟩ := rxLoad_reply (body ++ [c]) s
  have hK := (replyLen_le K).2
  have hlen : (body ++ [c]).length = K.len := by simpa using h
  have hfront : bufPrefix (bufOf (body ++ [c])) K.len = body ++ [c] := hlen ▸ bufPrefix_bufOf (hlen ▸ hK)
  have hbody : K.len - 1 = body.length := by omega
  rw [len, ovf, buf, hlen, decide_eq_false_iff_not, Nat.not_lt, Nat.min_eq_left hK, ← bufPrefix_take _ (Nat.sub_le K.len 1),
    hfront, hbody, bufByte_bufOf, if_pos (by omega)]
  exact ⟨hK, rfl, List.take_left, by simp⟩

/-! ## A sealed reply with a flipped bit (R131) -/

/-- DECODE of a frame with a wrong checksum byte. -/
theorem decode_wrong_checksum {K : ReplyKind} {body : List Byte} {c : Byte} (h : body.length + 1 = K.len)
    (hc : crc8 V body ≠ c) (s : State) :
    ∃ t, runCommands (rxLoadCommands (body ++ [c]) ++ [.decode (replyCode K)]) s = .next t ∧ t.err = 2 ∧
      t.recValid = false := by
  obtain ⟨ovf, len, hbody, hlast⟩ := load_frame c h s
  rw [runCommands_load_decode, decodeReply_checksum V K ovf len (by rwa [hbody, hlast])]
  exact ⟨_, rfl, rfl, rfl⟩

theorem xor_bit_ne (c : Byte) {j : Nat} (h : j < 8) : c ≠ c ^^^ 1#8 <<< j := by
  intro heq
  have hbit : 1#8 <<< j = 0 := by simpa using (BitVec.xor_right_inj c).mp (heq.symm.trans (BitVec.xor_zero).symm)
  interval_cases j <;> exact absurd hbit (by decide)

theorem flipBit_append_left {A : List Byte} (B : List Byte) {i : Nat} (j : Nat) (h : i < A.length) :
    flipBit (A ++ B) i j = flipBit A i j ++ B := by
  induction A generalizing i with
  | nil => exact absurd h (Nat.not_lt_zero i)
  | cons a A ih =>
    cases i with
    | zero => rfl
    | succ i => exact congrArg (a :: ·) (ih (Nat.lt_of_succ_lt_succ h))

theorem flipBit_append_last (A : List Byte) (c : Byte) (j : Nat) :
    flipBit (A ++ [c]) A.length j = A ++ [c ^^^ 1#8 <<< j] := by
  induction A with
  | nil => rfl
  | cons a A ih => exact congrArg (a :: ·) ih

/-- Settles O36: a flip in the body changes the checksum to be found (`crc8_flipBit_ne`), a flip in the last byte changes the
checksum received. -/
theorem oneFlippedBitIsAChecksumMismatch : Obligations.OneFlippedBitIsAChecksumMismatch := by
  intro K body i j s hK hi hj
  obtain hbody | hlast : i < body.length ∨ i = body.length := by omega
  · rw [sealFrame, flipBit_append_left [crc8 V body] j hbody]
    exact decode_wrong_checksum (by simpa [flipBit] using hK) (crc8_flipBit_ne P.poly.ne_zero hbody hj) s
  · rw [sealFrame, hlast, flipBit_append_last]
    exact decode_wrong_checksum hK (xor_bit_ne _ hj) s

/-! ## Independent transactions (R133) -/

/-- After the same reply side, DECODE reads alike, and so does every FIELD after it. -/
theorem sameReading_decodeReply (k : BitVec 4) {s t : State} (h : replySide s = replySide t) :
    SameReading (.next (decodeReply V k s)) (.next (decodeReply V k t)) := by
  obtain ⟨err, valid, kind⟩ := decodeReply_congr V k h
  refine ⟨_, _, rfl, rfl, err, valid, kind, fun sel => ⟨_, _, exec_field sel _, exec_field sel _, ?_⟩⟩
  have hbuf : (decodeReply V k s).rxbuf = (decodeReply V k t).rxbuf :=
    congrArg Prod.fst ((replySide_decodeReply V k s).trans (h.trans (replySide_decodeReply V k t).symm))
  obtain ⟨hv, hs⟩ | ⟨hv, hf, hs⟩ | ⟨x, hv, hf, hs⟩ := selectField_cases P.rtcBits sel (decodeReply V k s) <;> rw [hs]
  · rw [selectField_noRecord P.rtcBits sel (valid ▸ hv)]
    exact ⟨rfl, rfl⟩
  · rw [selectField_badField P.rtcBits (valid ▸ hv) (by rwa [← kind, ← hbuf])]
    exact ⟨rfl, rfl⟩
  · rw [selectField_value P.rtcBits (valid ▸ hv) (by rwa [← kind, ← hbuf])]
    exact ⟨rfl, rfl⟩

/-- A list of commands without RX_CLEAR, then DECODE: DECODE finds the pushed bytes behind what was there. -/
theorem runCommands_then_decode {is : List Instr} (h : .rxClear ∉ is) (k : BitVec 4) (s : State) :
    ∃ u, runCommands (is ++ [.decode k]) s = .next (decodeReply V k u) ∧
      replySide u = replySide (pushAll (pushedBytes is) s) := by
  obtain ⟨u, hu, hside⟩ := runCommands_replySide h s
  exact ⟨u, by rw [runCommands_append, hu]; rfl, hside⟩

/-- RX_CLEAR gives every state the reply side of the reset state (R33, R124). -/
theorem replySide_rxClear (s : State) : replySide (rxClear s) = replySide State.reset := rfl

/-- RX_CLEAR, then a list of commands without another, then DECODE: DECODE finds the pushed bytes as it would after reset. -/
theorem runCommands_clear_then_decode {is : List Instr} (h : .rxClear ∉ is) (k : BitVec 4) (s : State) :
    ∃ u, runCommands (.rxClear :: is ++ [.decode k]) s = .next (decodeReply V k u) ∧
      replySide u = replySide (pushAll (pushedBytes is) State.reset) := by
  obtain ⟨u, hu, hside⟩ := runCommands_then_decode h k (rxClear s)
  exact ⟨u, hu, hside.trans (pushAll_congr _ (replySide_rxClear s))⟩

/-- Settles O38: each of the runs ends in a DECODE on the reply side that pushing the same bytes after reset leaves. -/
theorem transactionsAreIndependent : Obligations.TransactionsAreIndependent := by
  refine ⟨fun k cmds cmds' s s' h h' hbytes => ?cleared, fun k cmds cmds' s h h' hbytes => ?reset, fun k s s' => ?encode⟩
  case cleared =>
    obtain ⟨u, hu, hside⟩ := runCommands_clear_then_decode h k s
    obtain ⟨u', hu', hside'⟩ := runCommands_clear_then_decode h' k s'
    rw [hu, hu']
    exact sameReading_decodeReply k (by rw [hside, hside', hbytes])
  case reset =>
    obtain ⟨u, hu, hside⟩ := runCommands_clear_then_decode h k s
    obtain ⟨u', hu', hside'⟩ := runCommands_then_decode h' k State.reset
    rw [hu, hu']
    exact sameReading_decodeReply k (by rw [hside, hside', hbytes])
  case encode =>
    refine ⟨_, _, exec_encode k s, exec_encode k s', ?_⟩
    cases hk : requestOfCode k with
    | none =>
      rw [encodeFrame_of_none P s hk, encodeFrame_of_none P s' hk]
      exact ⟨rfl, fun hlt => absurd ((requestOfCode_eq_none_iff k).mp hk) (Nat.not_le.mpr hlt)⟩
    | some K =>
      rw [(requestOfCode_eq_some_iff k K).mp hk, encodeFrame_request, encodeFrame_request]
      exact ⟨rfl, fun _ => ⟨rfl, rfl⟩⟩

end Sys2Proof.Proofs
end

section
/-! PROOFS of the family 41_frame_codec.md, the round trip (R129): a frame built of a record shows at each selector's offset the bytes of
the value that selector names. -/

namespace Sys2Proof.Proofs

open Sys2Proof Sys2Proof.Machine Sys2Proof.Stated Sys2Proof.Laws

/-! ## Fields of a frame -/

/-- The first `n` bytes of a word sum up to its value modulo `2^(8n)`. -/
theorem leSum_of_bytes {B : Buffer} {o : Nat} {w : Word} {n : Nat} (h : ∀ t < n, bufByte B (o + t) = byteOf w t) :
    leSum B o n = w.toNat % 2 ^ (8 * n) := by
  induction n with
  | zero => simp [Nat.mod_one]
  | succ n ih =>
    rw [leSum_succ, ih fun t ht => h t (Nat.lt_succ_of_lt ht), h n (Nat.lt_succ_self n), byteOf, BitVec.extractLsb'_toNat,
      Nat.shiftRight_eq_div_pow, Nat.mul_succ, pow_add, Nat.mod_mul, Nat.mul_comm (2 ^ (8 * n))]

section
variable {F : List Byte} (hF : F.length ≤ 37)
include hF

theorem bufByte_bufOf_of_getElem? {i : Nat} {b : Byte} (h : F[i]? = some b) : bufByte (bufOf F) i = b := by
  have hlt : i < F.length := (List.getElem?_eq_some_iff.mp h).1
  rw [bufByte_bufOf, if_pos (by omega), List.getD_eq_getElem?_getD, h]; rfl

/-- A one-byte field of a loaded frame. -/
theorem entryValue_bufOf_byte {o : Nat} {b : Byte} (h : F[o]? = some b) :
    entryValue (bufOf F) (.bytes o 1) = b.setWidth 32 := by
  rw [entryValue_byte, bufByte_bufOf_of_getElem? hF h]

/-- A field of a loaded frame that shows the bytes of a word is that word. -/
theorem entryValue_bufOf_bytes {o n : Nat} {w : Word} (hw : w.toNat < 2 ^ (8 * n))
    (h : ∀ t < n, F[o + t]? = some (byteOf w t)) : entryValue (bufOf F) (.bytes o n) = w := by
  have hsum := leSum_of_bytes fun t ht => bufByte_bufOf_of_getElem? hF (h t ht)
  rw [entryValue, leField, hsum, Nat.mod_eq_of_lt hw, BitVec.ofNat_toNat, BitVec.setWidth_eq]

/-- A flag of a loaded frame. -/
theorem entryValue_bufOf_bit {b : Byte} (h : F[2]? = some b) (p : Nat) :
    entryValue (bufOf F) (.bit p) = if b.getLsbD p then 1 else 0 := by
  rw [entryValue_bit, bufByte_bufOf_of_getElem? hF h]

end

/-- The bytes of the middle part of a frame. -/
theorem getElem?_append_mid {α : Type} {A M : List α} (C : List α) {o i : Nat} (hA : A.length = o) (hi : i < M.length) :
    (A ++ M ++ C)[o + i]? = M[i]? := by
  rw [List.append_assoc, ← hA, List.getElem?_append_right (Nat.le_add_right _ _), Nat.add_sub_cancel_left,
    List.getElem?_append_left hi]

theorem setWidth_toNat_lt {m : Nat} (x : BitVec m) : (x.setWidth 32).toNat < 2 ^ m := by
  rw [BitVec.toNat_setWidth]
  exact (Nat.mod_le _ _).trans_lt x.isLt

/-! ## Version frames (R80, R84) -/

/-- A version frame, cut around its text (R80). -/
theorem versionFrame_eq (v : CrcVariant) (r : VersionRecord) :
    sealFrame v (versionBody r) =
      ([r.dummy, r.status, r.subsystem, r.major, r.minor, r.patch] ++ leBytes 4 r.build
        ++ leBytes 2 (r.serial.setWidth 32)) ++ r.description.toList ++ [r.clock, r.buildKind, crc8 v (versionBody r)] := by
  simp [sealFrame, versionBody]

theorem versionBody_length (r : VersionRecord) : (versionBody r).length = 33 := by
  simp [versionBody, leBytes]

theorem versionFrame_length_le (v : CrcVariant) (r : VersionRecord) : (sealFrame v (versionBody r)).length ≤ 37 := by
  simp [sealFrame, versionBody_length]

theorem versionFrame_description (v : CrcVariant) (r : VersionRecord) {j : Nat} (h : j < 19) :
    (sealFrame v (versionBody r))[12 + j]? = some r.description[j] := by
  rw [versionFrame_eq, getElem?_append_mid _ (o := 12) rfl (by simpa using h)]
  simp

theorem versionFrame_tail (v : CrcVariant) (r : VersionRecord) {i : Nat} (h : i < 3) :
    (sealFrame v (versionBody r))[31 + i]? = [r.clock, r.buildKind, crc8 v (versionBody r)][i]? := by
  rw [versionFrame_eq, ← List.append_nil (_ ++ _), getElem?_append_mid _ (by simp [leBytes]) h]

theorem versionValue_description (v : CrcVariant) (r : VersionRecord) {j : Nat} (h : j < 19) :
    versionValue v r (16 + j) = some (r.description[j].setWidth 32) := by
  interval_cases j <;> rfl

theorem versionValue_gap (v : CrcVariant) (r : VersionRecord) {n : Nat} (h : (10 ≤ n ∧ n ≤ 15) ∨ 35 ≤ n) :
    versionValue v r n = none := by
  have hsize (h16 : 16 ≤ n) : 19 ≤ n - 16 := by omega
  unfold versionValue
  split
  case h_11 =>
    split
    case isTrue h16 => rw [Vector.getElem?_eq_none_iff.mpr (hsize h16)]; rfl
    case isFalse => rfl
  all_goals omega

/-- In a version frame every selector reads the value it names. -/
theorem versionEntry_frame (v : CrcVariant) (r : VersionRecord) (n : Nat) :
    (versionEntry n).map (entryValue (bufOf (sealFrame v (versionBody r)))) = versionValue v r n := by
  have hF := versionFrame_length_le v r
  have byte {o : Nat} {b : Byte} (h : (sealFrame v (versionBody r))[o]? = some b) :=
    congrArg some (entryValue_bufOf_byte hF h)
  by_cases hlow : n < 10
  · interval_cases n
    · exact byte rfl
    · exact byte rfl
    · exact byte rfl
    · exact byte rfl
    · exact byte rfl
    · exact congrArg some (entryValue_bufOf_bytes hF r.build.isLt fun t ht => by interval_cases t <;> rfl)
    · exact congrArg some
        (entryValue_bufOf_bytes hF (setWidth_toNat_lt r.serial) fun t ht => by interval_cases t <;> rfl)
    · exact byte (versionFrame_tail v r (i := 0) (by omega))
    · exact byte (versionFrame_tail v r (i := 1) (by omega))
    · exact byte (versionFrame_tail v r (i := 2) (by omega))
  by_cases htext : 16 ≤ n ∧ n ≤ 34
  · obtain ⟨j, rfl⟩ := Nat.exists_eq_add_of_le htext.1
    have hj : j < 19 := by omega
    have hrow : (16 + j, 12 + j, 1) ∈ versionRows := by simp [versionRows, hj]
    rw [versionEntry_of_row hrow, versionValue_description v r hj]
    exact byte (versionFrame_description v r hj)
  have hgap : (10 ≤ n ∧ n ≤ 15) ∨ 35 ≤ n := by omega
  rw [versionEntry_of_gap hgap, versionValue_gap v r hgap]
  rfl

/-! ## Housekeeping frames (R81, R85) -/

theorem analogBytes_length (l : List (BitVec 16)) : (l.flatMap fun a => leBytes 2 (a.setWidth 32)).length = 2 * l.length := by
  simp [leBytes, Nat.mul_comm]

theorem analogBytes_getElem? (l : List (BitVec 16)) (i : Nat) {t : Nat} (h : t < 2) :
    (l.flatMap fun a => leBytes 2 (a.setWidth 32))[2 * i + t]? = l[i]?.map fun a => byteOf (a.setWidth 32) t := by
  induction l generalizing i with
  | nil => rfl
  | cons a l ih =>
    cases i with
    | zero => interval_cases t <;> rfl
    | succ i =>
      rw [List.flatMap_cons, show 2 * (i + 1) + t = (leBytes 2 (a.setWidth 32)).length + (2 * i + t) by simp [leBytes]; omega,
        List.getElem?_append_right (Nat.le_add_right _ _), Nat.add_sub_cancel_left, ih, List.getElem?_cons_succ]

/-- A housekeeping frame, cut around its analog values (R81). -/
theorem housekeepingFrame_eq (v : CrcVariant) (r : HousekeepingRecord) :
    sealFrame v (housekeepingBody r) =
      ([r.dummy, r.status, r.enable] ++ leBytes 4 r.supervisorUptime ++ leBytes 4 r.hostUptime ++ leBytes 4 r.hostResets)
        ++ r.analog.toList.flatMap (fun a => leBytes 2 (a.setWidth 32))
        ++ [r.analogUpdate, crc8 v (housekeepingBody r)] := by
  simp [sealFrame, housekeepingBody]

theorem housekeepingBody_length (r : HousekeepingRecord) : (housekeepingBody r).length = 36 := by
  simp [housekeepingBody, leBytes]

theorem housekeepingFrame_length_le (v : CrcVariant) (r : HousekeepingRecord) :
    (sealFrame v (housekeepingBody r)).length ≤ 37 := by
  simp [sealFrame, housekeepingBody_length]

theorem housekeepingFrame_analog (v : CrcVariant) (r : HousekeepingRecord) {i t : Nat} (hi : i < 10) (ht : t < 2) :
    (sealFrame v (housekeepingBody r))[15 + 2 * i + t]? = some (byteOf (r.analog[i].setWidth 32) t) := by
  rw [housekeepingFrame_eq, Nat.add_assoc, getElem?_append_mid _ (o := 15) rfl (by rw [analogBytes_length]; simp; omega),
    analogBytes_getElem? _ i ht]
  simp [hi]

theorem housekeepingFrame_tail (v : CrcVariant) (r : HousekeepingRecord) {i : Nat} (h : i < 2) :
    (sealFrame v (housekeepingBody r))[35 + i]? = [r.analogUpdate, crc8 v (housekeepingBody r)][i]? := by
  rw [housekeepingFrame_eq, ← List.append_nil (_ ++ _),
    getElem?_append_mid _ (by rw [List.length_append, analogBytes_length]; simp [leBytes]) h]

theorem housekeepingValue_analog (v : CrcVariant) (bits : RtcBits) (r : HousekeepingRecord) {i : Nat} (h : i < 10) :
    housekeepingValue v bits r (8 + i) = some (r.analog[i].setWidth 32) := by
  interval_cases i <;> rfl

theorem housekeepingValue_gap (v : CrcVariant) (bits : RtcBits) (r : HousekeepingRecord) {n : Nat}
    (h : n = 7 ∨ (18 ≤ n ∧ n ≤ 23) ∨ 29 ≤ n) : housekeepingValue v bits r n = none := by
  have hsize (h8 : 8 ≤ n) : 10 ≤ n - 8 := by omega
  unfold housekeepingValue
  split
  case h_13 =>
    split
    case isTrue h8 => rw [Vector.getElem?_eq_none_iff.mpr (hsize h8)]; rfl
    case isFalse => rfl
  all_goals omega

/-- In a housekeeping frame every selector reads the value it names. -/
theorem housekeepingEntry_frame (v : CrcVariant) (bits : RtcBits) (r : HousekeepingRecord) (n : Nat) :
    (housekeepingEntry bits n).map (entryValue (bufOf (sealFrame v (housekeepingBody r)))) =
      housekeepingValue v bits r n := by
  have hF := housekeepingFrame_length_le v r
  have byte {o : Nat} {b : Byte} (h : (sealFrame v (housekeepingBody r))[o]? = some b) :=
    congrArg some (entryValue_bufOf_byte hF h)
  have flag (p : Nat) := congrArg some (entryValue_bufOf_bit hF (b := r.enable) rfl p)
  by_cases hlow : n < 7
  · interval_cases n
    · exact byte rfl
    · exact byte rfl
    · exact congrArg some (entryValue_bufOf_bytes hF r.supervisorUptime.isLt fun t ht => by interval_cases t <;> rfl)
    · exact congrArg some (entryValue_bufOf_bytes hF r.hostUptime.isLt fun t ht => by interval_cases t <;> rfl)
    · exact congrArg some (entryValue_bufOf_bytes hF r.hostResets.isLt fun t ht => by interval_cases t <;> rfl)
    · exact byte (housekeepingFrame_tail v r (i := 0) (by omega))
    · exact byte (housekeepingFrame_tail v r (i := 1) (by omega))
  by_cases hanalog : 8 ≤ n ∧ n ≤ 17
  · obtain ⟨i, rfl⟩ := Nat.exists_eq_add_of_le hanalog.1
    have hi : i < 10 := by omega
    have hrow : (8 + i, 15 + 2 * i, 2) ∈ housekeepingRows := by simp [housekeepingRows, hi]
    rw [housekeepingEntry_of_row bits hrow, housekeepingValue_analog v bits r hi]
    exact congrArg some (entryValue_bufOf_bytes hF (setWidth_toNat_lt r.analog[i])
      fun t ht => housekeepingFrame_analog v r hi ht)
  by_cases hflag : 24 ≤ n ∧ n ≤ 28
  · obtain ⟨lo, hi⟩ := hflag
    interval_cases n
    · exact flag 0
    · exact flag 1
    · exact flag 2
    · exact flag bits.busy
    · exact flag bits.pwrdn
  have hgap : n = 7 ∨ (18 ≤ n ∧ n ≤ 23) ∨ 29 ≤ n := by omega
  rw [housekeepingEntry_of_gap bits hgap, housekeepingValue_gap v bits r hgap]
  rfl

/-! ## Generic replies (R79, R86) -/

/-- In a generic reply every selector reads the value it names. -/
theorem genericEntry_frame (v : CrcVariant) (r : GenericRecord) (n : Nat) :
    (genericEntry n).map (entryValue (bufOf (sealFrame v (genericBody r)))) = genericValue v r n := by
  have hF : (sealFrame v (genericBody r)).length ≤ 37 := by simp [sealFrame, genericBody]
  match n with
  | 0 => exact congrArg some (entryValue_bufOf_byte hF rfl)
  | 1 => exact congrArg some (entryValue_bufOf_byte hF rfl)
  | _ + 2 => rfl

/-! ## The round trip -/

theorem runCommands_total (is : List Instr) (s : State) : ∃ t, runCommands is s = .next t := by
  induction is generalizing s with
  | nil => exact ⟨s, rfl⟩
  | cons i is ih =>
    obtain ⟨u, hu⟩ := exec_total i s
    obtain ⟨t, ht⟩ := ih u
    exact ⟨t, by rw [runCommands_cons, hu, andThen_next, ht]⟩

/-- RX_LOAD of a sealed frame of the kind's length, then DECODE, after any commands: a valid record of that kind, read from that
frame. -/
theorem decode_sealed {K : ReplyKind} {body : List Byte} (h : body.length + 1 = K.len) (pre : List Instr) (s : State) :
    ∃ t, runCommands (pre ++ rxLoadCommands (sealFrame V body) ++ [.decode (replyCode K)]) s = .next t ∧
      t.err = 0 ∧ t.recValid = true ∧ t.recKind = replyCode K ∧ t.rxbuf = bufOf (sealFrame V body) := by
  obtain ⟨u, hu⟩ := runCommands_total pre s
  obtain ⟨ovf, len, hbody, hlast⟩ := load_frame (crc8 V body) h u
  obtain ⟨-, -, buf⟩ := rxLoad_reply (sealFrame V body) u
  rw [List.append_assoc, runCommands_append, hu, andThen_next, runCommands_load_decode, sealFrame,
    decodeReply_ok V K ovf len (by rw [hbody, hlast])]
  exact ⟨_, rfl, rfl, rfl, rfl, buf⟩

/-- A valid record reads as `value` says when the entries of its kind do. -/
theorem readsRecord_of_entries {t : State} {K : ReplyKind} {value : Nat → Option Word} (herr : t.err = 0)
    (hvalid : t.recValid = true) (hkind : t.recKind = replyCode K)
    (h : ∀ sel : Byte, (fieldEntry P.rtcBits K sel).map (entryValue t.rxbuf) = value sel.toNat) :
    ReadsRecord t (replyCode K) value := by
  have hfield (sel : Byte) : fieldValue P.rtcBits t.recKind sel t.rxbuf = value sel.toNat := by
    rw [hkind, fieldValue_reply, h]
  refine ⟨herr, hvalid, hkind, fun sel x hx => ?_, fun sel hnone => ?_⟩
  · rw [exec_field, selectField_value P.rtcBits hvalid ((hfield sel).trans hx)]
  · rw [exec_field, selectField_badField P.rtcBits hvalid ((hfield sel).trans hnone)]

/-- A frame whose entries read as `value` says comes back through RX_LOAD, DECODE and FIELD. -/
theorem roundTrip {K : ReplyKind} {body : List Byte} {value : Nat → Option Word} (hlen : body.length + 1 = K.len)
    (h : ∀ sel : Byte, (fieldEntry P.rtcBits K sel).map (entryValue (bufOf (sealFrame V body))) = value sel.toNat)
    (pre : List Instr) (s : State) :
    ∃ t, runCommands (pre ++ rxLoadCommands (sealFrame V body) ++ [.decode (replyCode K)]) s = .next t ∧
      ReadsRecord t (replyCode K) value := by
  obtain ⟨t, ht, err, valid, kind, buf⟩ := decode_sealed hlen pre s
  exact ⟨t, ht, readsRecord_of_entries err valid kind fun sel => by rw [buf, h]⟩

/-- Settles O34: each of the three frames shows at every selector's entry the value it was built of. -/
theorem everyRecordRoundTrips : Obligations.EveryRecordRoundTrips :=
  ⟨fun r s pre _ => roundTrip (K := .getVersion) (by rw [versionBody_length]; rfl)
      (fun sel => versionEntry_frame V r sel.toNat) pre s,
    fun r s pre _ => roundTrip (K := .getHousekeeping) (by rw [housekeepingBody_length]; rfl)
      (fun sel => housekeepingEntry_frame V P.rtcBits r sel.toNat) pre s,
    fun r s => roundTrip (K := .generic) rfl (fun sel => genericEntry_frame V r sel.toNat) [] s⟩

end Sys2Proof.Proofs
end

section
/-! PROOFS of the family 70_reset_and_hazards.md: the first command after reset (R202), and that only the CRC commands move the
accumulator (R210). -/

namespace Sys2Proof.Proofs

open Sys2Proof Sys2Proof.Machine Sys2Proof.Stated Sys2Proof.Laws

/-! ## The first command after reset -/

/-- The empty reply buffer has the length of no reply. -/
theorem reset_rxlen_ne_len (K : ReplyKind) : State.reset.rxlen.toNat ≠ K.len := by
  obtain ⟨hpos, -⟩ := replyLen_le K
  have hzero : State.reset.rxlen.toNat = 0 := rfl
  omega

/-- Settles O41: no command stops, and in the reset state `acc` is `CRC8_INIT`, the reply buffer is empty and no record is
valid. -/
theorem anyCommandMayFollowReset : Obligations.AnyCommandMayFollowReset := by
  refine ⟨fun i => exec_total i State.reset, fun b => ⟨_, exec_crcByte b State.reset, rfl⟩,
    fun K => ⟨_, exec_decode (replyCode K) State.reset, ?length⟩,
    fun k h3 h4 h5 => ⟨_, exec_decode k State.reset, ?badKind⟩, fun sel => ⟨_, exec_field_noRecord sel rfl, rfl⟩⟩
  case length => rw [decodeReply_length V K (.inr (reset_rxlen_ne_len K))]
  case badKind => rw [decodeReply_badKind V State.reset ((replyOfCode_eq_none_iff k).mpr ⟨h3, h4, h5⟩)]

/-! ## Commands that keep the accumulator -/

theorem encodeFrame_acc (p : Params) (k : BitVec 4) (s : State) : (encodeFrame p k s).acc = s.acc := by
  obtain ⟨K, -, hs⟩ | ⟨-, hs⟩ := encodeFrame_cases p k s <;> rw [hs]

theorem decodeReply_acc (v : CrcVariant) (k : BitVec 4) (s : State) : (decodeReply v k s).acc = s.acc := by
  obtain ⟨-, hs⟩ | ⟨K, -, ⟨-, hs⟩ | ⟨-, -, ⟨-, hs⟩ | ⟨-, hs⟩⟩⟩ := decodeReply_cases v k s <;> rw [hs]

theorem selectField_acc (bits : RtcBits) (sel : Byte) (s : State) : (selectField bits sel s).acc = s.acc := by
  obtain ⟨-, hs⟩ | ⟨-, -, hs⟩ | ⟨x, -, -, hs⟩ := selectField_cases bits sel s <;> rw [hs]

/-- Of the commands, only CRC_INIT and CRC_BYTE move the accumulator. -/
theorem exec_keeps_acc {i : Instr} (hi : ¬ IsCrcCommand i) (s : State) : ∃ t, exec i s = .next t ∧ t.acc = s.acc := by
  cases i with
  | nop => exact ⟨_, exec_nop s, rfl⟩
  | crcInit => exact absurd (.inl rfl) hi
  | crcByte b => exact absurd (.inr ⟨b, rfl⟩) hi
  | rxClear => exact ⟨_, exec_rxClear s, rfl⟩
  | rxPush b => exact ⟨_, exec_rxPush b s, by rw [rxPush_frame]⟩
  | encode k => exact ⟨_, exec_encode k s, encodeFrame_acc P k s⟩
  | decode k => exact ⟨_, exec_decode k s, decodeReply_acc V k s⟩
  | field sel => exact ⟨_, exec_field sel s, selectField_acc P.rtcBits sel s⟩

theorem runCommands_keeps_acc {is : List Instr} (h : ∀ i ∈ is, ¬ IsCrcCommand i) (s : State) :
    ∃ t, runCommands is s = .next t ∧ t.acc = s.acc := by
  induction is generalizing s with
  | nil => exact ⟨s, rfl, rfl⟩
  | cons i is ih =>
    obtain ⟨hi, his⟩ := List.forall_mem_cons.mp h
    obtain ⟨u, hu, hacc⟩ := exec_keeps_acc hi s
    obtain ⟨t, ht, hrest⟩ := ih his u
    exact ⟨t, by rw [runCommands_cons, hu, andThen_next, ht], hrest.trans hacc⟩

/-- A word keeps the accumulator when the decoder refuses it, or reads a command that keeps it. -/
theorem runCommand_keeps_acc {w : Word} (h : ∀ i, decode w = .ok i → ¬ IsCrcCommand i) (s : State) :
    ∃ t, runCommand w s = .next t ∧ t.acc = s.acc := by
  rw [runCommand]
  cases hd : decode w with
  | ok i => exact exec_keeps_acc (h i hd) s
  | error e => exact ⟨_, rfl, illegalCommand_acc s⟩

/-- Commands that keep the accumulator may stand between any two bytes of a CRC computation: the fold goes on where it was. -/
theorem runCommands_crc_interrupted (A B : List Byte) {is : List Instr} (h : ∀ i ∈ is, ¬ IsCrcCommand i) (s : State) :
    ∃ t, runCommands (crc8Commands A ++ is ++ B.map .crcByte) s = .next t ∧ t.acc = crcFold V V.init (A ++ B) := by
  obtain ⟨u, hu, hacc⟩ := runCommands_keeps_acc h { s with acc := crcFold V V.init A, err := 0 }
  refine ⟨_, .trans ?run (runCommands_crcBytes B u), ?acc⟩
  case run =>
    rw [runCommands_append, runCommands_append, runCommands_crc8Commands, andThen_next, hu, andThen_next]
  case acc => rw [hacc, crcFold_append]

/-- Settles O17: the interrupted computation leaves the fold of `A ++ B`, whose `crc_out` the `CRC` register shows. -/
theorem frameCommandsDoNotDisturbTheCrc : Obligations.FrameCommandsDoNotDisturbTheCrc := by
  refine ⟨fun A B cmds s h => ?_, fun w s h => runCommand_keeps_acc h s⟩
  obtain ⟨t, ht, hacc⟩ := runCommands_crc_interrupted A B h s
  exact ⟨t, ht, by rw [windowWord_crc, hacc, crc8_eq_out_fold]⟩

end Sys2Proof.Proofs
end

section
/-! PROOFS: the encoding of commands (30_encoding.md sections 1 and 2): decoder and encoder undo each other, and agree with the legality
formula of R120 and the match and mask table of R72. -/

namespace Sys2Proof.Proofs

open Sys2Proof Sys2Proof.Machine Sys2Proof.Stated Sys2Proof.Laws

/-- Settles O1: `decode_encode`. -/
theorem decodingAnEncodedCommandGivesItBack : Obligations.DecodingAnEncodedCommandGivesItBack :=
  decode_encode

/-- Settles O2: `encode_of_decode`. -/
theorem encodingADecodedWordGivesItBack : Obligations.EncodingADecodedWordGivesItBack :=
  fun _ _ => encode_of_decode

/-- Settles O4: eight of the words are the words of their commands, the four others fail the test named. -/
theorem specWordsDecode : Obligations.SpecWordsDecode :=
  ⟨decode_encode .nop, decode_encode .crcInit, decode_encode (.crcByte 0x31), decode_encode .rxClear,
    decode_encode (.rxPush 0xE8), decode_encode (.encode 4), decode_encode (.decode 15), decode_encode (.field 28),
    rfl, rfl, rfl, rfl⟩

theorem decode_eq_ok_iff {w : Word} {i : Instr} : decode w = .ok i ↔ encode i = w :=
  ⟨encode_of_decode, fun h => h ▸ decode_encode i⟩

theorem encode_injective : Function.Injective encode := by
  intro i j h
  exact Except.ok.inj ((decode_encode i).symm.trans (h ▸ decode_encode j))

theorem legalWord_iff_exists_encode (w : Word) : legalWord w = true ↔ ∃ i, encode i = w :=
  ⟨fun h => ⟨_, encode_commandOf h⟩, fun ⟨i, hi⟩ => hi ▸ legalWord_encode i⟩

/-! ## The rows of the match and mask table -/

theorem fields_and (w m : Word) :
    rsvOf (w &&& m) = rsvOf w &&& rsvOf m ∧ opOf (w &&& m) = opOf w &&& opOf m ∧
    kindOf (w &&& m) = kindOf w &&& kindOf m ∧ immOf (w &&& m) = immOf w &&& immOf m := by
  refine ⟨?_, ?_, ?_, ?_⟩ <;> exact BitVec.extractLsb'_and

/-- What a match says of the fields of a word, field by field of the mask. -/
theorem fields_of_match {w m : Word} {op : BitVec 4} (h : w &&& m = commandWord op 0 0) :
    rsvOf w &&& rsvOf m = 0 ∧ opOf w &&& opOf m = op ∧ kindOf w &&& kindOf m = 0 ∧ immOf w &&& immOf m = 0 := by
  obtain ⟨rsv, opc, kind, imm⟩ := fields_and w m
  rw [← rsv, ← opc, ← kind, ← imm, h]
  exact commandWord_fields op 0 0

/-- The words that match a row whose mask keeps every bit. -/
theorem match_full_iff {w : Word} (op : BitVec 4) : w &&& 0xFFFFFFFF = commandWord op 0 0 ↔ commandWord op 0 0 = w := by
  rw [show w &&& 0xFFFFFFFF = w from BitVec.and_allOnes, eq_comm]

/-- The words that match a row whose mask leaves `IMM8` free. -/
theorem match_imm_iff {w : Word} (op : BitVec 4) :
    w &&& 0xFFFFFF00 = commandWord op 0 0 ↔ ∃ b, commandWord op 0 b = w := by
  refine ⟨fun h => ⟨immOf w, ?_⟩, fun ⟨b, hb⟩ => hb ▸ commandWord_and_immMask op b⟩
  obtain ⟨rsv, opc, kind, -⟩ := fields_of_match h
  rw [← commandWord_of_fields (BitVec.and_allOnes.symm.trans rsv), BitVec.and_allOnes.symm.trans opc,
    BitVec.and_allOnes.symm.trans kind, immOf_commandWord]

/-- The words that match a row whose mask leaves `KIND` free. -/
theorem match_kind_iff {w : Word} (op : BitVec 4) :
    w &&& 0xFFFFF0FF = commandWord op 0 0 ↔ ∃ k, commandWord op k 0 = w := by
  refine ⟨fun h => ⟨kindOf w, ?_⟩, fun ⟨k, hk⟩ => hk ▸ commandWord_and_kindMask op k⟩
  obtain ⟨rsv, opc, -, imm⟩ := fields_of_match h
  rw [← commandWord_of_fields (BitVec.and_allOnes.symm.trans rsv), BitVec.and_allOnes.symm.trans opc,
    BitVec.and_allOnes.symm.trans imm, kindOf_commandWord]

/-- A command exists with a property when one does under one of the eight mnemonics. -/
theorem exists_instr_iff {p : Instr → Prop} :
    (∃ i, p i) ↔ p .nop ∨ p .crcInit ∨ (∃ b, p (.crcByte b)) ∨ p .rxClear ∨ (∃ b, p (.rxPush b)) ∨
      (∃ k, p (.encode k)) ∨ (∃ k, p (.decode k)) ∨ ∃ sel, p (.field sel) := by
  constructor
  · rintro ⟨i, h⟩
    cases i with
    | nop => exact .inl h
    | crcInit => exact .inr (.inl h)
    | crcByte b => exact .inr (.inr (.inl ⟨b, h⟩))
    | rxClear => exact .inr (.inr (.inr (.inl h)))
    | rxPush b => exact .inr (.inr (.inr (.inr (.inl ⟨b, h⟩))))
    | encode k => exact .inr (.inr (.inr (.inr (.inr (.inl ⟨k, h⟩)))))
    | decode k => exact .inr (.inr (.inr (.inr (.inr (.inr (.inl ⟨k, h⟩))))))
    | field sel => exact .inr (.inr (.inr (.inr (.inr (.inr (.inr ⟨sel, h⟩))))))
  · rintro (h | h | ⟨b, h⟩ | h | ⟨b, h⟩ | ⟨k, h⟩ | ⟨k, h⟩ | ⟨sel, h⟩) <;> exact ⟨_, h⟩

/-- A row of R72 matches exactly the words of the commands that bear its mnemonic. -/
theorem matchesWord_iff {r : OpcodeRow} (hr : r ∈ opcodeRows) (w : Word) :
    r.matchesWord w = true ↔ ∃ i, encode i = w ∧ mnemonicOf i = r.mnemonic := by
  rw [OpcodeRow.matchesWord, beq_iff_eq, exists_instr_iff]
  simp only [opcodeRows, List.mem_cons, List.not_mem_nil, or_false] at hr
  obtain rfl | rfl | rfl | rfl | rfl | rfl | rfl | rfl := hr
  · exact (match_full_iff 0).trans (by simp [encode, mnemonicOf])
  · exact (match_full_iff 1).trans (by simp [encode, mnemonicOf])
  · exact (match_imm_iff 2).trans (by simp [encode, mnemonicOf])
  · exact (match_full_iff 3).trans (by simp [encode, mnemonicOf])
  · exact (match_imm_iff 4).trans (by simp [encode, mnemonicOf])
  · exact (match_kind_iff 5).trans (by simp [encode, mnemonicOf])
  · exact (match_kind_iff 6).trans (by simp [encode, mnemonicOf])
  · exact (match_imm_iff 7).trans (by simp [encode, mnemonicOf])

/-- Settles O3: a word is legal, and matches a row, exactly when it is the word of a command; that command's mnemonic is the
row's. -/
theorem decoderAgreesWithTheOpcodeTable : Obligations.DecoderAgreesWithTheOpcodeTable := by
  refine ⟨fun w => ?legal, fun w => ⟨fun h => ?hasRow, ?ofRow⟩, fun w i hi r hr => ?mnemonic⟩
  case legal => rw [legalWord_iff_exists_encode, exists_congr fun i => decode_eq_ok_iff]
  case hasRow =>
    obtain ⟨i, rfl⟩ := (legalWord_iff_exists_encode w).mp h
    exact exists_row_matches_encode i
  case ofRow =>
    rintro ⟨r, hr, hm⟩
    obtain ⟨i, hi, -⟩ := (matchesWord_iff hr w).mp hm
    exact (legalWord_iff_exists_encode w).mpr ⟨i, hi⟩
  case mnemonic =>
    obtain rfl := decode_eq_ok_iff.mp hi
    rw [matchesWord_iff hr, eq_comm]
    exact ⟨fun ⟨j, hj, hm⟩ => encode_injective hj ▸ hm, fun hm => ⟨i, rfl, hm⟩⟩

end Sys2Proof.Proofs
end

section
/-! PROOFS: the CRC function (40_checksum.md R101, R103): `crc_update` as a remainder of polynomials over GF(2), affinity, the
zero polynomial and the residue. -/

namespace Sys2Proof.Proofs

open Sys2Proof Sys2Proof.Machine Sys2Proof.Stated Sys2Proof.Laws

/-! ## `crc_update` as a remainder -/

section
open Polynomial

theorem coeff_polyOf (b : Byte) (n : Nat) : (polyOf b).coeff n = if b.getLsbD n then 1 else 0 := by
  have hterm (i : Nat) : (if b.getLsbD i then (X ^ i : (ZMod 2)[X]) else 0).coeff n =
      if n = i then (if b.getLsbD n then 1 else 0) else 0 := by
    rw [apply_ite (coeff · n), coeff_X_pow, coeff_zero]
    by_cases h : n = i
    · simp [h]
    · simp [h]
  rw [polyOf, finsetSum_coeff, Finset.sum_congr rfl fun i _ => hterm i, Finset.sum_ite_eq]
  by_cases h : n < 8
  · simp [h]
  · simp [h, BitVec.getLsbD_of_ge b n (by omega)]

theorem polyOf_zero : polyOf 0 = 0 := by
  ext n
  simp [coeff_polyOf]

/-- XOR of bytes is addition of polynomials over GF(2). -/
theorem polyOf_xor (a b : Byte) : polyOf (a ^^^ b) = polyOf a + polyOf b := by
  ext n
  rw [coeff_add, coeff_polyOf, coeff_polyOf, coeff_polyOf, BitVec.getLsbD_xor]
  cases a.getLsbD n <;> cases b.getLsbD n <;> decide

theorem degree_polyOf_lt (b : Byte) : (polyOf b).degree < 8 := by
  refine (degree_lt_iff_coeff_zero _ 8).mpr fun n hn => ?_
  rw [coeff_polyOf, BitVec.getLsbD_of_ge b n hn]
  rfl

/-- A shift to the left is multiplication by `x`, but for the bit it drops. -/
theorem polyOf_shiftLeft (d : Byte) : polyOf d * X = polyOf (d <<< 1) + if d.getLsbD 7 then X ^ 8 else 0 := by
  ext n
  rw [coeff_add, apply_ite (coeff · n), coeff_X_pow, coeff_zero, coeff_polyOf]
  cases n with
  | zero => simp
  | succ n =>
    rw [coeff_mul_X, coeff_polyOf, BitVec.getLsbD_shiftLeft]
    obtain hlt | rfl | hgt := Nat.lt_trichotomy n 7
    · simp [show n + 1 < 8 by omega, Nat.ne_of_lt hlt]
    · simp
    · simp [BitVec.getLsbD_of_ge d n hgt, Nat.ne_of_gt hgt]

/-- The generator polynomial with its implied leading term. -/
noncomputable def generator (v : CrcVariant) : (ZMod 2)[X] := X ^ 8 + polyOf v.poly

theorem generator_monic (v : CrcVariant) : (generator v).Monic :=
  monic_X_pow_add (degree_polyOf_lt v.poly)

theorem degree_generator (v : CrcVariant) : (generator v).degree = 8 := by
  rw [generator, degree_add_eq_left_of_degree_lt]
  · exact degree_X_pow 8
  · exact (degree_polyOf_lt v.poly).trans_eq (degree_X_pow 8).symm

/-- One shift of the register multiplies by `x`, modulo the generator. -/
theorem generator_dvd_crcShift (v : CrcVariant) (d : Byte) : generator v ∣ polyOf d * X - polyOf (crcShift v d) := by
  rw [polyOf_shiftLeft, crcShift_eq, polyOf_xor, add_sub_add_left_eq_sub]
  split
  · rw [CharTwo.sub_eq_add, generator]
  · rw [polyOf_zero, sub_self]
    exact dvd_zero _

theorem generator_dvd_iterate_crcShift (v : CrcVariant) (n : Nat) (d : Byte) :
    generator v ∣ polyOf d * X ^ n - polyOf ((crcShift v)^[n] d) := by
  induction n with
  | zero => simp
  | succ n ih =>
    have hsplit : polyOf d * X ^ (n + 1) - polyOf ((crcShift v)^[n + 1] d) =
        (polyOf d * X ^ n - polyOf ((crcShift v)^[n] d)) * X +
          (polyOf ((crcShift v)^[n] d) * X - polyOf (crcShift v ((crcShift v)^[n] d))) := by
      rw [Function.iterate_succ_apply']
      ring
    rw [hsplit]
    exact dvd_add (ih.mul_right X) (generator_dvd_crcShift v _)

/-- Settles O8: eight shifts multiply by `x^8` modulo the generator, and the register has a smaller degree than it. -/
theorem crcUpdateIsTheRemainderModuloTheGenerator : Obligations.CrcUpdateIsTheRemainderModuloTheGenerator := by
  intro v c b
  refine Eq.symm ?_
  calc _ = polyOf (crcUpdate v c b) %ₘ generator v :=
        modByMonic_eq_of_dvd_sub (generator_monic v) (generator_dvd_iterate_crcShift v 8 _)
    _ = polyOf (crcUpdate v c b) :=
        (modByMonic_eq_self_iff (generator_monic v)).mpr ((degree_polyOf_lt _).trans_eq (degree_generator v).symm)

end

/-! ## Affinity -/

theorem crcUpdate_xor_xor (v : CrcVariant) (c d e x y z : Byte) :
    crcUpdate v (c ^^^ d ^^^ e) (x ^^^ y ^^^ z) = crcUpdate v c x ^^^ crcUpdate v d y ^^^ crcUpdate v e z := by
  have hin : (if v.refin then rev8 (x ^^^ y ^^^ z) else x ^^^ y ^^^ z) =
      (if v.refin then rev8 x else x) ^^^ (if v.refin then rev8 y else y) ^^^ (if v.refin then rev8 z else z) := by
    split
    · rw [rev8_xor, rev8_xor]
    · rfl
  simp only [crcUpdate, ← iterate_crcShift_xor, hin]
  congr 1
  ac_rfl

theorem crcFold_xor_xor (v : CrcVariant) {X Y Z : List Byte} (hXY : X.length = Y.length) (hYZ : Y.length = Z.length)
    (c d e : Byte) :
    crcFold v (c ^^^ d ^^^ e) (xorBytes (xorBytes X Y) Z) = crcFold v c X ^^^ crcFold v d Y ^^^ crcFold v e Z := by
  induction X generalizing Y Z c d e with
  | nil =>
    obtain rfl := List.length_eq_zero_iff.mp hXY.symm
    obtain rfl := List.length_eq_zero_iff.mp hYZ.symm
    rfl
  | cons x X ih =>
    obtain ⟨y, Y, rfl⟩ := List.exists_cons_of_length_eq_add_one hXY.symm
    obtain ⟨z, Z, rfl⟩ := List.exists_cons_of_length_eq_add_one (hYZ.symm.trans hXY.symm)
    have hstep := ih (Nat.succ.inj hXY) (Nat.succ.inj hYZ) (crcUpdate v c x) (crcUpdate v d y) (crcUpdate v e z)
    rw [← crcUpdate_xor_xor] at hstep
    exact hstep

theorem crcOut_xor_xor (v : CrcVariant) (c d e : Byte) :
    crcOut v (c ^^^ d ^^^ e) = crcOut v c ^^^ crcOut v d ^^^ crcOut v e := by
  apply BitVec.eq_of_getLsbD_eq
  intro i hi
  simp only [BitVec.getLsbD_xor, getLsbD_crcOut v _ hi]
  cases v.xorout.getLsbD i <;> cases v.refout <;> simp

/-- Settles O10: the three registers and their checksums are XORed step by step; each constant stands three times, so it
stays. -/
theorem crcIsAffine : Obligations.CrcIsAffine := by
  intro v X Y Z hXY hYZ
  have hinit : v.init ^^^ v.init ^^^ v.init = v.init := by rw [BitVec.xor_self, BitVec.zero_xor]
  rw [crc8_eq_out_fold, crc8_eq_out_fold, crc8_eq_out_fold, crc8_eq_out_fold, ← crcOut_xor_xor,
    ← crcFold_xor_xor v hXY hYZ, hinit]

/-! ## What the checksum detects -/

/-- Settles O11: `crc8_flipBit_ne`. -/
theorem crcDetectsEverySingleBitFlip : Obligations.CrcDetectsEverySingleBitFlip :=
  fun _ _ _ _ hpoly hi hj => crc8_flipBit_ne hpoly hi hj

/-- Eight shifts without feedback run every byte out. -/
theorem crcUpdate_of_poly_zero {v : CrcVariant} (h : v.poly = 0) (c b : Byte) : crcUpdate v c b = 0 :=
  iterate_crcShift_eq_zero ((iterate_crcShift_eight v).trans h) 8 _ (BitVec.isLt _)

theorem crcFold_of_poly_zero {v : CrcVariant} (h : v.poly = 0) (c : Byte) {B : List Byte} (hB : B ≠ []) :
    crcFold v c B = 0 := by
  rw [← List.dropLast_append_getLast hB, crcFold_append, crcFold_cons, crcFold_nil, crcUpdate_of_poly_zero h]

theorem crcOut_zero (v : CrcVariant) : crcOut v 0 = v.xorout := by
  rw [crcOut, show rev8 0 = 0 from rfl, ite_self]
  exact BitVec.zero_xor

/-- Settles O12: the last byte runs everything out of the register. -/
theorem zeroPolynomialDetectsNothing : Obligations.ZeroPolynomialDetectsNothing :=
  fun v h => ⟨crcUpdate_of_poly_zero h,
    fun B hB => by rw [crc8_eq_out_fold, crcFold_of_poly_zero h v.init hB, crcOut_zero]⟩

/-- Settles O13: the checksum of the plain CRC is the register itself, which the last update XORs away. -/
theorem crcResidueIsZero : Obligations.CrcResidueIsZero := by
  intro v B hin hout hxor
  rw [crcFold_append, crcFold_cons, crcFold_nil, crc8_eq_out_fold, crcOut_plain _ hout hxor, crcUpdate, hin,
    if_neg Bool.false_ne_true, BitVec.xor_self]
  exact iterate_crcShift_zero v 8

end Sys2Proof.Proofs
end

section
/-! PROOFS: the host port (20_memory.md section 2, 10_state.md R28, R34): the fields of STATUS, the host addresses, and what the step does
for each kind of access. -/

namespace Sys2Proof.Proofs

open Sys2Proof Sys2Proof.Machine Sys2Proof.Stated Sys2Proof.Laws

/-! ## STATUS -/

/-- The bits of `STATUS` (R28). -/
theorem getLsbD_status (v : CrcVariant) (s : State) {i : Nat} (hi : i < 32) :
    (windowWord v s 0x04).getLsbD i =
      (s.err.getLsbD i || (decide (i = 4) && s.recValid) || (decide (i = 5) && s.rxovf) ||
        (decide (8 ≤ i) && s.recKind.getLsbD (i - 8))) := by
  rw [show windowWord v s 0x04 = statusWord s from windowWord_reg v s .status]
  simp only [statusWord, BitVec.getLsbD_or, BitVec.getLsbD_shiftLeft, BitVec.getLsbD_setWidth, hi]
  interval_cases i <;> simp

/-- The low four bits of `STATUS` are `ERR` (R28). -/
theorem status_err (v : CrcVariant) (s : State) : (windowWord v s 0x04).extractLsb' 0 4 = s.err := by
  apply BitVec.eq_of_getLsbD_eq
  intro i hi
  rw [BitVec.getLsbD_extractLsb', getLsbD_status v s (by omega)]
  interval_cases i <;> simp

/-- Settles O51: bit by bit, by `getLsbD_status`. -/
theorem statusShowsItsFields : Obligations.StatusShowsItsFields := by
  refine fun s => ⟨status_err V s, ?_, ?_, ?_, ?_, ?_⟩
  · rw [getLsbD_status V s (by omega)]
    simp
  · rw [getLsbD_status V s (by omega)]
    simp
  all_goals
    apply BitVec.eq_of_getLsbD_eq
    intro i hi
    rw [BitVec.getLsbD_extractLsb', getLsbD_status V s (by omega)]
    interval_cases i <;> simp

/-! ## Host addresses -/

/-- Settles O52: inside the window the offset is the distance to the base, which fits in a byte. -/
theorem theWindowLiesAtTheBase : Obligations.TheWindowLiesAtTheBase := by
  refine ⟨fun p off => ?inside, fun p a h => if_neg (by omega), fun p a off h => ?back⟩
  case inside =>
    have hlt := off.isLt
    rw [hostAddress, offsetOfAddress, if_pos (by omega), Nat.add_sub_cancel_left, BitVec.ofNat_toNat, BitVec.setWidth_eq]
  case back =>
    rw [offsetOfAddress, Option.ite_none_right_eq_some] at h
    obtain ⟨⟨lo, hi⟩, hoff⟩ := h
    rw [hostAddress, ← Option.some.inj hoff, BitVec.toNat_ofNat, Nat.mod_eq_of_lt (by omega)]
    omega

/-! ## Bits that read 0 -/

theorem and_eq_zero_of_bits {w m : Word} (h : ∀ i < 32, m.getLsbD i = true → w.getLsbD i = false) : w &&& m = 0 := by
  apply BitVec.eq_of_getLsbD_eq
  intro i hi
  rw [BitVec.getLsbD_and]
  cases hm : m.getLsbD i with
  | false => simp
  | true => simp [h i hi hm]

theorem setWidth_and_eq_zero {n : Nat} (x : BitVec n) {m : Word} (hm : ∀ i < n, m.getLsbD i = false) :
    x.setWidth 32 &&& m = 0 := by
  refine and_eq_zero_of_bits fun i _ hi => ?_
  have hn : n ≤ i := by
    by_contra hlt
    rw [hm i (by omega)] at hi
    exact Bool.false_ne_true hi
  rw [BitVec.getLsbD_setWidth, BitVec.getLsbD_of_ge x i hn, Bool.and_false]

/-- `CMD` reads 0 (R27). -/
theorem windowByte_cmd (v : CrcVariant) (s : State) {off : Offset} (h : off.toNat < 4) : windowByte v s off = 0 := by
  rw [windowByte, if_pos (by omega), regByte, Nat.div_eq_of_lt h]
  exact BitVec.extractLsb'_zero ..

/-- The bits of `STATUS` that are not named read 0 (R28). -/
theorem status_reserved (v : CrcVariant) (s : State) : windowWord v s 0x04 &&& 0xFFFFF0C0 = 0 := by
  refine and_eq_zero_of_bits fun i hi hm => ?_
  have hfree : i = 6 ∨ i = 7 ∨ 12 ≤ i := by
    revert hm
    interval_cases i <;> decide
  rw [getLsbD_status v s hi, BitVec.getLsbD_of_ge s.err i (by omega)]
  obtain rfl | rfl | h := hfree
  · simp
  · simp
  · simp [show i ≠ 4 by omega, show i ≠ 5 by omega, BitVec.getLsbD_of_ge s.recKind (i - 8) (by omega)]

/-- The bits of `CHK` that are not named read 0 (R32). -/
theorem chk_reserved (v : CrcVariant) (s : State) : windowWord v s 0x18 &&& 0xFFFF0000 = 0 := by
  rw [show windowWord v s 0x18 = regWord v s .chk from windowWord_reg v s .chk]
  refine and_eq_zero_of_bits fun i hi hm => ?_
  have hfree : 16 ≤ i := by
    revert hm
    interval_cases i <;> decide
  rw [getLsbD_chk v s hi, if_neg (by omega), BitVec.getLsbD_of_ge _ _ (by omega)]

/-! ## One event, by the kind of its access -/

section
variable {s : State} {off : Offset} {n : Nat} {w : Word}

theorem serveEvent_read_ok {r : Response} (h : busRead V off n s = .ok r) :
    serveEvent (.read off n) s = .next (respond r s) := by
  rw [serveEvent, h]

theorem serveEvent_read_refused (h1 : n ≠ 1) (h4 : ¬ (n = 4 ∧ off.toNat % 4 = 0)) :
    serveEvent (.read off n) s = .next (respond (.busError off) s) := by
  rw [serveEvent, busRead_refused V s h1 h4]
  rfl

theorem serveEvent_command (w : Word) (s : State) :
    serveEvent (commandEvent w) s = andThen (runCommand w s) fun t => .next (respond .written t) := by
  rw [commandEvent, serveEvent, busWrite_cmd]

theorem serveEvent_write_ignored (ha : off.toNat % 4 = 0) (hc : off ≠ regOffset .cmd) :
    serveEvent (.write off 4 w) s = .next (respond .written s) := by
  rw [serveEvent, busWrite_beside_cmd w s ha hc]
  rfl

theorem serveEvent_write_refused (hn : ¬ (n = 4 ∧ off.toNat % 4 = 0)) :
    serveEvent (.write off n w) s = .next (respond (.busError off) s) := by
  rw [serveEvent, busWrite_refused w s hn]
  rfl

/-- A step whose oldest event is the write of a command word runs the word. -/
theorem step_command {rest : List HostEvent} (h : s.pending = commandEvent w :: rest) :
    step s = andThen (runCommand w { s with pending := rest }) fun t => .next (respond .written t) :=
  (step_event h).trans (serveEvent_command w _)

end

/-- Settles O7: `step_command` for a word the decoder accepts. -/
theorem stepRunsTheDecodedCommand : Obligations.StepRunsTheDecodedCommand := by
  intro s rest w i h hd
  rw [step_command h, runCommand, hd]
  rfl

/-- Settles O40: the event is served by `assertReset`, which keeps the host's side. -/
theorem theResetInputResetsTheBlock : Obligations.TheResetInputResetsTheBlock :=
  fun _ _ h => step_event h

/-- Settles O46: `serveEvent_read_refused` and `serveEvent_write_refused`. -/
theorem aRefusedAccessChangesNothing : Obligations.ARefusedAccessChangesNothing :=
  fun _ _ _ _ _ => ⟨fun h h1 h4 => (step_event h).trans (serveEvent_read_refused h1 h4),
    fun h hn => (step_event h).trans (serveEvent_write_refused hn)⟩

/-- Settles O47: the answers are those of `busRead`; the offsets that read 0 are `CMD` and the reserved ones, and of the words
the bits without a name. -/
theorem readsHaveNoSideEffect : Obligations.ReadsHaveNoSideEffect := by
  refine ⟨fun s rest off h => (step_event h).trans (serveEvent_read_ok (busRead_byte V off _)),
    fun s rest off h ha => (step_event h).trans (serveEvent_read_ok (busRead_word V _ ha)),
    fun s off h => ?zero, fun s => ⟨status_reserved V s, ?crc, ?txlen, ?rxlen, chk_reserved V s⟩⟩
  case zero =>
    obtain hcmd | hres := h
    · exact windowByte_cmd V s hcmd
    · exact windowByte_reserved V s (by omega)
  case crc =>
    rw [windowWord_crc]
    exact setWidth_and_eq_zero _ (by decide)
  case txlen => exact (congrArg (· &&& _) (windowWord_reg V s .txlen)).trans (setWidth_and_eq_zero s.txlen (by decide))
  case rxlen => exact (congrArg (· &&& _) (windowWord_reg V s .rxlen)).trans (setWidth_and_eq_zero s.rxlen (by decide))

end Sys2Proof.Proofs
end

section
/-! PROOFS: the host's stream (20_memory.md section 4, 60_exceptions.md section 4): what serving one event can do, and runs over a
list of events. -/

namespace Sys2Proof.Proofs

open Sys2Proof Sys2Proof.Machine Sys2Proof.Stated Sys2Proof.Laws

/-! ## Commands and the host's side of the port -/

theorem runCommands_port (is : List Instr) (s : State) (p : List HostEvent) (r : List Response) :
    runCommands is { s with pending := p, responses := r } =
      andThen (runCommands is s) fun t => .next { t with pending := p, responses := r } := by
  induction is generalizing s with
  | nil => rfl
  | cons i is ih =>
    obtain ⟨u, hu⟩ := exec_total i s
    simp only [runCommands_cons, exec_port, hu, andThen_next, ih]

theorem runCommands_port_next {is : List Instr} {s t : State} (h : runCommands is s = .next t) (p : List HostEvent)
    (r : List Response) :
    runCommands is { s with pending := p, responses := r } = .next { t with pending := p, responses := r } := by
  rw [runCommands_port, h, andThen_next]

/-- A word's effect does not depend on the host's side of the port and leaves it alone. -/
theorem runCommand_port (w : Word) (s : State) (p : List HostEvent) (r : List Response) :
    runCommand w { s with pending := p, responses := r } =
      andThen (runCommand w s) fun t => .next { t with pending := p, responses := r } := by
  obtain ⟨i, rfl⟩ | hill := encode_or_runsAsIllegal w
  · rw [runCommand_encode, runCommand_encode, exec_port]
  · rw [hill, hill, andThen_next]

theorem exec_keeps_port {i : Instr} {s t : State} (h : exec i s = .next t) :
    t.pending = s.pending ∧ t.responses = s.responses := by
  have hport := exec_port i s s.pending s.responses
  simp only [h, andThen_next] at hport
  have heq : t = { t with pending := s.pending, responses := s.responses } :=
    Host.Outcome.next.inj hport
  rw [heq]
  exact ⟨rfl, rfl⟩

theorem runCommand_total (w : Word) (s : State) :
    ∃ t, runCommand w s = .next t ∧ t.pending = s.pending ∧ t.responses = s.responses := by
  obtain ⟨i, rfl⟩ | hill := encode_or_runsAsIllegal w
  · obtain ⟨t, ht⟩ := exec_total i s
    exact ⟨t, (runCommand_encode i s).trans ht, exec_keeps_port ht⟩
  · exact ⟨_, hill s, rfl, rfl⟩

/-! ## One event -/

/-- An event is the reset input, a command, or only answered, and then with an error response only where it is not
admitted (R53 to R57). -/
theorem event_cases (e : HostEvent) :
    e = .reset ∨ (∃ w, e = commandEvent w) ∨
      (reachesTheBlock e = false ∧
        ∀ s, ∃ r, serveEvent e s = .next (respond r s) ∧ (admittedEvent e = true → ∀ off, r ≠ .busError off)) := by
  cases e with
  | reset => exact .inl rfl
  | read off n =>
    refine .inr (.inr ⟨rfl, fun s => ?_⟩)
    by_cases h1 : n = 1
    · subst h1
      exact ⟨_, serveEvent_read_ok (busRead_byte V off s), fun _ _ => Response.noConfusion⟩
    by_cases h4 : n = 4 ∧ off.toNat % 4 = 0
    · obtain ⟨rfl, ha⟩ := h4
      exact ⟨_, serveEvent_read_ok (busRead_word V s ha), fun _ _ => Response.noConfusion⟩
    · refine ⟨_, serveEvent_read_refused h1 h4, fun ha => absurd ?_ (not_or.mpr ⟨h1, h4⟩)⟩
      simpa [admittedEvent, admittedRead] using ha
  | write off n w =>
    refine .inr (or_iff_not_imp_left.mpr fun hc => ?_)
    by_cases hn : n = 4 ∧ off.toNat % 4 = 0
    · obtain ⟨rfl, ha⟩ := hn
      have hoff : off ≠ regOffset .cmd := fun h => hc ⟨w, by rw [h, commandEvent]⟩
      exact ⟨beq_eq_false_iff_ne.mpr hoff,
        fun s => ⟨_, serveEvent_write_ignored ha hoff, fun _ _ => Response.noConfusion⟩⟩
    · refine ⟨?_, fun s => ⟨_, serveEvent_write_refused hn, fun ha => absurd ?_ hn⟩⟩
      · rw [reachesTheBlock, Bool.and_eq_false_iff, beq_eq_false_iff_ne, beq_eq_false_iff_ne, ← not_and_or]
        rintro ⟨h4, rfl⟩
        exact hn ⟨h4, rfl⟩
      · simpa [admittedEvent, admittedWrite] using ha

/-- Every event is answered: the later accesses and the earlier answers stay, and an admitted event adds no error response. -/
theorem serveEvent_total (e : HostEvent) (s : State) :
    ∃ t answers, serveEvent e s = .next t ∧ t.pending = s.pending ∧ t.responses = s.responses ++ answers ∧
      (admittedEvent e = true → ∀ off, .busError off ∉ answers) := by
  obtain rfl | ⟨w, rfl⟩ | ⟨-, h⟩ := event_cases e
  · exact ⟨_, [], rfl, rfl, (List.append_nil _).symm, fun _ _ => List.not_mem_nil⟩
  · obtain ⟨t, ht, hp, hr⟩ := runCommand_total w s
    refine ⟨respond .written t, [.written], ?_, hp, congrArg (· ++ _) hr, by simp⟩
    rw [serveEvent_command, ht, andThen_next]
  · obtain ⟨r, hr, hok⟩ := h s
    refine ⟨_, [r], hr, rfl, rfl, fun ha off hmem => ?_⟩
    exact hok ha off (List.mem_singleton.mp hmem).symm

/-- Serving an event does not look at the later ones. -/
theorem serveEvent_pending (e : HostEvent) (s : State) (p : List HostEvent) :
    serveEvent e { s with pending := p } = andThen (serveEvent e s) fun t => .next { t with pending := p } := by
  cases e with
  | reset => rfl
  | read off n =>
    simp only [serveEvent, busRead]
    split_ifs <;> rfl
  | write off n w =>
    simp only [serveEvent, busWrite]
    split_ifs
    · obtain ⟨t, ht, -, hresp⟩ := runCommand_total w s
      rw [show ({ s with pending := p } : State) = { s with pending := p, responses := s.responses } from rfl,
        runCommand_port, ht, ← hresp]
      rfl
    · rfl
    · rfl

/-- Settles O53: with no access pending a step changes nothing, and every access is answered (`serveEvent_total`). -/
theorem noStateStopsTheMachine : Obligations.NoStateStopsTheMachine := by
  intro s
  cases hp : s.pending with
  | nil => exact ⟨s, step_idle hp, hp, [], List.append_nil _⟩
  | cons e rest =>
    obtain ⟨t, answers, ht, hpend, hresp, -⟩ := serveEvent_total e { s with pending := rest }
    exact ⟨t, (step_event hp).trans ht, hpend, answers, hresp.symm⟩

/-! ## Runs -/

theorem run_succ_of_step {s t : State} (h : step s = .next t) (n : Nat) :
    Host.Core.run core (n + 1) s = Host.Core.run core n t := by
  simp only [Host.Core.run, show core.step s = .next t from h]

/-- A run serves the oldest event first, and goes on with the later ones. -/
theorem run_event {e : HostEvent} {s t : State} (h : serveEvent e s = .next t) (rest : List HostEvent) (n : Nat) :
    Host.Core.run core (n + 1) { s with pending := e :: rest } = Host.Core.run core n { t with pending := rest } := by
  refine run_succ_of_step ((step_event (s := { s with pending := e :: rest }) rfl).trans ?_) n
  exact (serveEvent_pending e s rest).trans (by rw [h, andThen_next])

/-- Settles O54: each step serves an admitted access, which gets no error response. -/
theorem admittedAccessesAreNeverRefused : Obligations.AdmittedAccessesAreNeverRefused := by
  intro n
  induction n with
  | zero => exact fun s h _ => ⟨s, rfl, h⟩
  | succ n ih =>
    intro s hs hall
    cases hp : s.pending with
    | nil =>
      rw [run_succ_of_step (step_idle hp)]
      exact ih s hs hall
    | cons e rest =>
      rw [hp, List.forall_mem_cons] at hall
      obtain ⟨he, hrest⟩ := hall
      obtain ⟨t, answers, ht, hpend, hresp, hok⟩ := serveEvent_total e { s with pending := rest }
      rw [run_succ_of_step ((step_event hp).trans ht)]
      refine ih t (fun off hmem => ?_) (by rwa [hpend])
      rw [hresp, List.mem_append] at hmem
      exact hmem.elim (hs off) (hok he off)

/-! ## Commands and resets among other events -/

theorem sameBlock_iff {s t : State} :
    SameBlock s t ↔ ∃ p r, t = { s with pending := p, responses := r } :=
  ⟨fun h => ⟨_, _, h.symm⟩, fun ⟨_, _, h⟩ => by rw [h, SameBlock]⟩

theorem sameBlock_trans {s t u : State} (h : SameBlock s t) (h' : SameBlock t u) : SameBlock s u := by
  obtain ⟨p, r, rfl⟩ := sameBlock_iff.mp h
  obtain ⟨p', r', rfl⟩ := sameBlock_iff.mp h'
  exact rfl

theorem sameBlock_pending {s t : State} (h : SameBlock s t) (p q : List HostEvent) :
    SameBlock { s with pending := p } { t with pending := q } := by
  obtain ⟨p', r, rfl⟩ := sameBlock_iff.mp h
  exact rfl

/-- What an event does to the block does not depend on the host's side of the port. -/
theorem serveEvent_sameBlock {s s' : State} (h : SameBlock s s') (e : HostEvent) :
    ∃ t t', serveEvent e s = .next t ∧ serveEvent e s' = .next t' ∧ SameBlock t t' := by
  obtain ⟨p, r, rfl⟩ := sameBlock_iff.mp h
  obtain rfl | ⟨w, rfl⟩ | ⟨-, hans⟩ := event_cases e
  · exact ⟨_, _, rfl, rfl, rfl⟩
  · obtain ⟨u, hu, -⟩ := runCommand_total w s
    refine ⟨respond .written u, _, ?_, ?_, sameBlock_iff.mpr ⟨p, r ++ [.written], rfl⟩⟩
    · rw [serveEvent_command, hu, andThen_next]
    · rw [serveEvent_command, runCommand_port, hu]
      rfl
  · obtain ⟨r1, h1, -⟩ := hans s
    obtain ⟨r2, h2, -⟩ := hans { s with pending := p, responses := r }
    exact ⟨_, _, h1, h2, rfl⟩

/-- An event that does not reach the block leaves it as it is. -/
theorem serveEvent_of_not_reachesTheBlock {e : HostEvent} (h : reachesTheBlock e = false) (s : State) :
    ∃ t, serveEvent e s = .next t ∧ SameBlock t s := by
  obtain rfl | ⟨w, rfl⟩ | ⟨-, hans⟩ := event_cases e
  · exact Bool.noConfusion h
  · exact Bool.noConfusion h
  · obtain ⟨r, hr, -⟩ := hans s
    exact ⟨_, hr, rfl⟩

/-- From states that agree on the block, all the events and only those that reach the block end alike. -/
theorem run_filter_reachesTheBlock (events : List HostEvent) {s s' : State} (h : SameBlock s s') :
    ∃ t t', Host.Core.run core events.length { s with pending := events } = .next t ∧
      Host.Core.run core (events.filter reachesTheBlock).length { s' with pending := events.filter reachesTheBlock } =
        .next t' ∧ SameBlock t t' := by
  induction events generalizing s s' with
  | nil => exact ⟨_, _, rfl, rfl, sameBlock_pending h [] []⟩
  | cons e events ih =>
    cases hreach : reachesTheBlock e with
    | true =>
      obtain ⟨t, t', ht, ht', htt'⟩ := serveEvent_sameBlock h e
      rw [List.filter_cons_of_pos hreach, List.length_cons, List.length_cons, run_event ht, run_event ht']
      exact ih htt'
    | false =>
      obtain ⟨t, ht, hts⟩ := serveEvent_of_not_reachesTheBlock hreach s
      rw [List.filter_cons_of_neg (by simp [hreach]), List.length_cons, run_event ht]
      exact ih (sameBlock_trans hts h)

/-- Settles O55: `run_filter_reachesTheBlock` from one state. -/
theorem onlyCommandsAndResetsReachTheBlock : Obligations.OnlyCommandsAndResetsReachTheBlock :=
  fun events _ => run_filter_reachesTheBlock events rfl

/-! ## Streams of commands and of reads -/

theorem serveEvent_encode {i : Instr} {s t : State} (h : exec i s = .next t) :
    serveEvent (commandEvent (encode i)) s = .next (respond .written t) := by
  rw [serveEvent_command, runCommand_encode, h, andThen_next]

/-- The writes of a list of commands run them and are answered one by one. -/
theorem run_commandEvents {cmds : List Instr} {s t : State} (h : runCommands cmds s = .next t) (rest : List HostEvent) :
    Host.Core.run core cmds.length { s with pending := commandEvents cmds ++ rest } =
      .next { t with pending := rest, responses := s.responses ++ List.replicate cmds.length .written } := by
  induction cmds generalizing s t with
  | nil =>
    obtain rfl := Host.Outcome.next.inj h
    show _ = Host.Outcome.next { s with pending := rest, responses := s.responses ++ [] }
    rw [List.append_nil]
    rfl
  | cons i cmds ih =>
    obtain ⟨u, hu⟩ := exec_total i s
    obtain ⟨-, hresp⟩ := exec_keeps_port hu
    rw [runCommands_cons, hu, andThen_next] at h
    have hcmds := runCommands_port_next h u.pending (u.responses ++ [.written])
    rw [List.length_cons, commandEvents, List.map_cons, List.cons_append, run_event (serveEvent_encode hu)]
    refine (ih (s := respond .written u) hcmds).trans ?_
    rw [respond_responses, hresp, List.append_assoc, List.replicate_succ]
    rfl

/-- Settles O56: `run_commandEvents`; the commands do not look at the host's side. -/
theorem theStreamOfWritesRunsTheCommandsInOrder : Obligations.TheStreamOfWritesRunsTheCommandsInOrder := by
  intro cmds s rest
  obtain ⟨t, ht⟩ := runCommands_total cmds s
  have hrest : runCommands cmds { s with pending := rest } = _ := runCommands_port_next ht rest s.responses
  rw [run_commandEvents ht, hrest]
  rfl

/-- One-byte reads answer the bytes of the window, in order. -/
theorem run_byteReads (offs : List Offset) (s : State) :
    Host.Core.run core offs.length { s with pending := offs.map (.read · 1) } =
      .next { s with pending := [], responses := s.responses ++ offs.map fun off => .byte (windowByte V s off) } := by
  induction offs generalizing s with
  | nil => simp [Host.Core.run]
  | cons off offs ih =>
    rw [List.length_cons, List.map_cons, run_event (serveEvent_read_ok (busRead_byte V off s)), List.map_cons,
      List.append_cons]
    exact ih (respond (.byte (windowByte V s off)) s)

/-- `TX_READ` after `ENCODE` returns the request image (R88, R126). -/
theorem txRead_encodeFrame (v : CrcVariant) (p : Params) (K : RequestKind) (s : State) :
    txRead v (encodeFrame p (requestCode K) s) K.len = reqImage p K := by
  obtain ⟨-, hK⟩ := requestLen_le K
  have hlen := reqImage_length p K
  rw [encodeFrame_request]
  apply List.ext_getElem
  · simp [txRead, hlen]
  · intro i hi hi'
    rw [hlen] at hi'
    simp only [txRead, List.getElem_map, List.getElem_range]
    rw [windowByte_tx v _ (by omega), bufByte_bufOf, if_pos (by omega)]
    simp [hlen, hi']

/-- Settles O48: `step_command` and `serveEvent_write_ignored`; the two writes of RX_PUSH are a stream of two commands. -/
theorem onlyAWriteToCmdHasAnEffect : Obligations.OnlyAWriteToCmdHasAnEffect := by
  refine ⟨fun s rest w h => step_command h,
    fun s rest off w h ha hc => (step_event h).trans (serveEvent_write_ignored ha hc), fun s h => ?_⟩
  have hpushes : runCommands [.rxPush 0, .rxPush 0] s = .next (pushAll [0, 0] s) := runCommands_pushes [0, 0] s
  refine ⟨_, run_commandEvents hpushes [], ?_⟩
  obtain ⟨hlen, -⟩ := pushAll_reply [0, 0] (s := s) (by omega)
  exact hlen.trans (Nat.min_eq_left (show s.rxlen.toNat + 2 ≤ 37 by omega))

/-- Settles O57: after the command the reads answer `TX_READ`, which is the image. -/
theorem theRequestIsReadOutByteForByte : Obligations.TheRequestIsReadOutByteForByte := by
  intro k s
  have hencode := serveEvent_encode (exec_encode (requestCode k) s)
  have hreads := run_byteReads ((List.range k.len).map fun i => BitVec.ofNat 8 (0x40 + i))
    (respond .written (encodeFrame P (requestCode k) s))
  rw [List.length_map, List.length_range, List.map_map] at hreads
  rw [commandEvents, List.map_singleton, List.singleton_append, Nat.add_comm, run_event hencode]
  refine ⟨_, hreads, ?_⟩
  obtain ⟨-, hresp⟩ := exec_keeps_port (exec_encode (requestCode k) s)
  rw [respond_responses, hresp, ← txRead_encodeFrame V P k s, txRead, List.map_map, List.map_map]
  rfl

end Sys2Proof.Proofs
end

section
/-! PROOFS: what the commands change and leave (10_state.md section 3 to 5, 41_frame_codec.md section 2, 60_exceptions.md): the
frames in the window, the elements each command may write, and the codes it reports. -/

namespace Sys2Proof.Proofs

open Sys2Proof Sys2Proof.Machine Sys2Proof.Stated Sys2Proof.Laws

/-! ## What a byte of the window depends on -/

/-- The bytes of a zero-extended register above its width read 0. -/
theorem byteOf_setWidth_above {n : Nat} (x : BitVec n) {t : Nat} (h : n ≤ 8 * t) : byteOf (x.setWidth 32) t = 0 := by
  apply BitVec.eq_of_getLsbD_eq
  intro i hi
  rw [getLsbD_byteOf _ _ hi, BitVec.getLsbD_setWidth, BitVec.getLsbD_of_ge x _ (by omega), Bool.and_false]
  exact BitVec.getLsbD_zero.symm

/-- A zero-extended register of at most a byte shows itself in its lowest byte only. -/
theorem byteOf_setWidth_congr {n : Nat} {x y : BitVec n} (hn : n ≤ 8) {j : Nat} (h : j = 0 → x = y) :
    byteOf (x.setWidth 32) j = byteOf (y.setWidth 32) j := by
  by_cases hj : j = 0
  · rw [h hj]
  · rw [byteOf_setWidth_above x (by omega), byteOf_setWidth_above y (by omega)]

/-- Above its lowest byte `STATUS` shows `REC_KIND` only (R28). -/
theorem byteOf_status_congr (v : CrcVariant) {s t : State} {j : Nat} (hkind : j = 1 → t.recKind = s.recKind) (h1 : 1 ≤ j)
    (h4 : j < 4) : byteOf (regWord v t .status) j = byteOf (regWord v s .status) j := by
  rw [← windowWord_reg, ← windowWord_reg]
  apply BitVec.eq_of_getLsbD_eq
  intro i hi
  rw [getLsbD_byteOf _ _ hi, getLsbD_byteOf _ _ hi]
  have hbit (u : State) : (windowWord v u (regOffset .status)).getLsbD (8 * j + i) = u.recKind.getLsbD (8 * j + i - 8) := by
    refine (getLsbD_status v u (by omega)).trans ?_
    rw [BitVec.getLsbD_of_ge u.err _ (by omega)]
    simp [show 8 * j + i ≠ 4 by omega, show 8 * j + i ≠ 5 by omega, show 8 ≤ 8 * j + i by omega]
  rw [hbit, hbit]
  by_cases hj : j = 1
  · rw [hkind hj]
  · rw [BitVec.getLsbD_of_ge _ _ (by omega), BitVec.getLsbD_of_ge _ _ (by omega)]

/-- An offset below the reserved range is a byte of a register (R35). -/
theorem exists_reg_of_lt {off : Offset} (h : off.toNat < 0x1C) :
    ∃ r j, j < 4 ∧ off = regOffset r + BitVec.ofNat 8 j := by
  have hsplit (r : Reg) (hr : (regOffset r).toNat = 4 * (off.toNat / 4)) :
      ∃ r j, j < 4 ∧ off = regOffset r + BitVec.ofNat 8 j := by
    refine ⟨r, off.toNat % 4, Nat.mod_lt _ (by omega), ?_⟩
    apply BitVec.eq_of_toNat_eq
    rw [BitVec.toNat_add, BitVec.toNat_ofNat, hr]
    omega
  obtain ⟨q, hq⟩ : ∃ q, q = off.toNat / 4 := ⟨_, rfl⟩
  have hlt : q < 7 := by omega
  rw [← hq] at hsplit
  interval_cases q
  · exact hsplit .cmd rfl
  · exact hsplit .status rfl
  · exact hsplit .crc rfl
  · exact hsplit .txlen rfl
  · exact hsplit .rxlen rfl
  · exact hsplit .field rfl
  · exact hsplit .chk rfl

/-- A byte of the window outside the lowest one of `STATUS` stays as it is when the elements it shows do; those of which the caller
says nothing are the same by definition. -/
theorem windowByte_congr (v : CrcVariant) (s t : State) (off : Offset) (hstatus : off ≠ 0x04)
    (hkind : off = 0x05 → t.recKind = s.recKind := by exact fun _ => rfl)
    (hacc : off = 0x08 → t.acc = s.acc := by exact fun _ => rfl)
    (htxlen : off = 0x0C → t.txlen = s.txlen := by exact fun _ => rfl)
    (hrxlen : off = 0x10 → t.rxlen = s.rxlen := by exact fun _ => rfl)
    (hfield : 0x14 ≤ off.toNat → off.toNat ≤ 0x17 → t.field = s.field := by exact fun _ _ => rfl)
    (hcalc : off = 0x18 → t.chkCalc = s.chkCalc := by exact fun _ => rfl)
    (hrecv : off = 0x19 → t.chkRecv = s.chkRecv := by exact fun _ => rfl)
    (htx : ∀ i, off.toNat = 0x40 + i → bufByte t.txbuf i = bufByte s.txbuf i := by exact fun _ _ => rfl)
    (hrx : ∀ i, off.toNat = 0x80 + i → bufByte t.rxbuf i = bufByte s.rxbuf i := by exact fun _ _ => rfl) :
    windowByte v t off = windowByte v s off := by
  by_cases hreg : off.toNat < 0x1C
  · obtain ⟨r, j, hj, rfl⟩ := exists_reg_of_lt hreg
    rw [windowByte_reg v t r hj, windowByte_reg v s r hj]
    cases r with
    | cmd => rfl
    | status =>
      refine byteOf_status_congr v (fun h => hkind (by rw [h]; rfl)) (Nat.one_le_iff_ne_zero.mpr fun h => ?_) hj
      exact hstatus (by rw [h]; rfl)
    | crc => exact byteOf_setWidth_congr (by omega) fun h => congrArg (crcOut v) (hacc (by rw [h]; rfl))
    | txlen => exact byteOf_setWidth_congr (by omega) fun h => htxlen (by rw [h]; rfl)
    | rxlen => exact byteOf_setWidth_congr (by omega) fun h => hrxlen (by rw [h]; rfl)
    | field => exact congrArg (byteOf · j) (hfield (by interval_cases j <;> decide) (by interval_cases j <;> decide))
    | chk =>
      by_cases h2 : 2 ≤ j
      · rw [byteOf_chk_above v t h2 hj, byteOf_chk_above v s h2 hj]
      · interval_cases j
        · rw [byteOf_chk_calc, byteOf_chk_calc, hcalc rfl]
        · rw [byteOf_chk_recv, byteOf_chk_recv, hrecv rfl]
  by_cases hlow : off.toNat < 0x40
  · rw [windowByte_reserved v t (.inl (by omega)), windowByte_reserved v s (.inl (by omega))]
  by_cases htxw : off.toNat < 0x80
  · rw [windowByte, windowByte, if_neg hlow, if_pos htxw, if_neg hlow, if_pos htxw, htx _ (by omega)]
  · rw [windowByte, windowByte, if_neg hlow, if_neg htxw, if_neg hlow, if_neg htxw, hrx _ (by omega)]

/-! ## Frames -/

/-- CRC_INIT and CRC_BYTE write `acc` and `ERR` only. -/
theorem exec_crc_frame {i : Instr} (h : IsCrcCommand i) (s : State) : ∃ a, exec i s = .next { s with acc := a, err := 0 } := by
  obtain rfl | ⟨b, rfl⟩ := h
  · exact ⟨_, exec_crcInit s⟩
  · exact ⟨_, exec_crcByte b s⟩

/-- DECODE writes `CHK`, the record and `ERR` only. -/
theorem decodeReply_frame (v : CrcVariant) (k : BitVec 4) (s : State) :
    decodeReply v k s = { s with chkCalc := (decodeReply v k s).chkCalc, chkRecv := (decodeReply v k s).chkRecv,
                                 recValid := (decodeReply v k s).recValid, recKind := (decodeReply v k s).recKind,
                                 err := (decodeReply v k s).err } := by
  obtain ⟨-, h⟩ | ⟨K, -, ⟨-, h⟩ | ⟨-, -, ⟨-, h⟩ | ⟨-, h⟩⟩⟩ := decodeReply_cases v k s <;> rw [h]

/-- FIELD writes `FIELD` and `ERR` only. -/
theorem selectField_frame (bits : RtcBits) (sel : Byte) (s : State) :
    selectField bits sel s = { s with field := (selectField bits sel s).field, err := (selectField bits sel s).err } := by
  obtain ⟨-, h⟩ | ⟨-, -, h⟩ | ⟨x, -, -, h⟩ := selectField_cases bits sel s <;> rw [h]

/-- Settles O29: the frames of the commands, and `windowByte_congr` for the elements they leave. -/
theorem registerCommandsLeaveTheRest : Obligations.RegisterCommandsLeaveTheRest := by
  refine ⟨fun i s hi => ?crc, fun k s => ⟨_, exec_decode k s, decodeReply_frame V k s, ?decode⟩,
    fun sel s => ⟨_, exec_field sel s, selectField_frame P.rtcBits sel s, ?field⟩⟩
  case crc =>
    obtain ⟨a, ha⟩ := exec_crc_frame hi s
    exact ⟨_, ha, rfl, fun off h4 h8 => windowByte_congr V s _ off h4 (hacc := (absurd · h8))⟩
  case decode =>
    intro off h4 h5 h18 h19
    rw [decodeReply_frame]
    exact windowByte_congr V s _ off h4 (hkind := (absurd · h5)) (hcalc := (absurd · h18)) (hrecv := (absurd · h19))
  case field =>
    intro off h4 hout
    rw [selectField_frame]
    exact windowByte_congr V s _ off h4 (hfield := fun lo hi => by omega)

/-- Settles O30: as O29; of the buffers the bytes that are not stored stay. -/
theorem bufferCommandsLeaveTheRest : Obligations.BufferCommandsLeaveTheRest := by
  refine ⟨fun b s => ⟨_, exec_rxPush b s, rxPush_frame b s, ?push⟩, fun s => ⟨_, exec_rxClear s, rxClear_eq s, ?clear⟩,
    fun k s => ⟨_, exec_encode k s, ?encode⟩⟩
  case push =>
    intro off h4 h5 h10 hstore
    by_cases hl : s.rxlen.toNat < 37
    · rw [rxPush_of_lt b hl]
      refine windowByte_congr V s _ off h4 (hkind := (absurd · h5)) (hrxlen := (absurd · h10)) (hrx := fun i hi => ?_)
      refine (bufByte_bufSet s.rxbuf s.rxlen.toNat i b).trans (if_neg ?_)
      rintro ⟨rfl, -⟩
      exact hstore ⟨hl, hi⟩
    · rw [rxPush_of_full b hl]
      exact windowByte_congr V s _ off h4 (hkind := (absurd · h5))
  case clear =>
    intro off h4 h5 h10 hout
    refine windowByte_congr V s _ off h4 (hkind := (absurd · h5)) (hrxlen := (absurd · h10)) (hrx := fun i hi => ?_)
    rw [bufByte_of_ge _ (by omega), bufByte_of_ge _ (by omega)]
  case encode =>
    obtain ⟨K, rfl, h⟩ | ⟨hk, h⟩ := encodeFrame_cases P k s
    · rw [h]
      refine ⟨rfl, fun off h4 hout => ?_⟩
      obtain ⟨h0c, hout⟩ := hout (by cases K <;> decide)
      refine windowByte_congr V s _ off h4 (htxlen := (absurd · h0c)) (htx := fun i hi => ?_)
      rw [bufByte_of_ge _ (by omega), bufByte_of_ge _ (by omega)]
    · rw [h]
      exact ⟨rfl, fun off h4 _ => windowByte_congr V s _ off h4⟩

/-! ## Elements and codes -/

/-- Settles O31: command by command, over the ways it can end. -/
theorem onlyTheNamedCommandsChangeAnElement : Obligations.OnlyTheNamedCommandsChangeAnElement := by
  intro i s
  cases i with
  | nop => exact ⟨s, exec_nop s, by simp⟩
  | crcInit => exact ⟨_, exec_crcInit s, by simp [crcInit_eq, IsCrcCommand]⟩
  | crcByte b => exact ⟨_, exec_crcByte b s, by simp [crcByte_eq, IsCrcCommand]⟩
  | rxClear => exact ⟨_, exec_rxClear s, by simp [rxClear_eq]⟩
  | rxPush b =>
    refine ⟨_, exec_rxPush b s, ?_⟩
    by_cases h : s.rxlen.toNat < 37
    · simp [rxPush_of_lt b h, h]
    · simp [rxPush_of_full b h]
  | encode k =>
    refine ⟨_, exec_encode k s, ?_⟩
    obtain ⟨K, rfl, h⟩ | ⟨-, h⟩ := encodeFrame_cases P k s
    · rw [h]
      simp
    · simp [h]
  | decode k =>
    refine ⟨_, exec_decode k s, ?_⟩
    obtain ⟨-, h⟩ | ⟨K, rfl, ⟨-, h⟩ | ⟨ho, hl, ⟨-, h⟩ | ⟨-, h⟩⟩⟩ := decodeReply_cases V k s <;> rw [h]
    · simp
    · simp
    · simpa [ho, hl] using fun _ => ⟨K, rfl, rfl⟩
    · simpa [ho, hl] using fun _ => ⟨K, rfl, rfl⟩
  | field sel =>
    refine ⟨_, exec_field sel s, ?_⟩
    rw [selectField_frame]
    simp

/-- Settles O32: over the ways each command can end; DECODE by `decodeReply_recValid_iff`. -/
theorem eachCommandReportsOnlyItsCodes : Obligations.EachCommandReportsOnlyItsCodes := by
  refine ⟨fun s => ⟨_, exec_crcInit s, rfl⟩, fun b s => ⟨_, exec_crcByte b s, rfl⟩, fun s => ⟨_, exec_rxClear s, rfl⟩,
    fun b s => ⟨_, exec_rxPush b s, ?push⟩, fun k s => ⟨_, exec_encode k s, ?encode⟩,
    fun k s => ⟨_, exec_decode k s, ?decode, (decodeReply_recValid_iff V k s).symm⟩,
    fun sel s => ⟨_, exec_field sel s, ?field⟩⟩
  case push =>
    by_cases h : s.rxlen.toNat < 37
    · simp [rxPush_of_lt b h]
    · simp [rxPush_of_full b h]
  case encode =>
    obtain ⟨K, -, h⟩ | ⟨-, h⟩ := encodeFrame_cases P k s <;> simp [h]
  case decode =>
    obtain ⟨-, h⟩ | ⟨K, -, ⟨-, h⟩ | ⟨-, -, ⟨-, h⟩ | ⟨-, h⟩⟩⟩ := decodeReply_cases V k s <;> simp [h]
  case field =>
    obtain ⟨-, h⟩ | ⟨-, -, h⟩ | ⟨x, -, -, h⟩ := selectField_cases P.rtcBits sel s <;> simp [h]

/-! ## What is sticky -/

/-- Of the words, only that of RX_CLEAR clears `RXOVF`. -/
theorem runCommand_clears_rxovf {w : Word} {s t : State} (h : runCommand w s = .next t) (hs : s.rxovf = true)
    (ht : t.rxovf = false) : w = 0x00003000 := by
  obtain ⟨i, rfl⟩ | hill := encode_or_runsAsIllegal w
  · rw [runCommand_encode] at h
    obtain ⟨u, hu, -, -, -, -, -, hclear, -⟩ := onlyTheNamedCommandsChangeAnElement i s
    obtain rfl := Host.Outcome.next.inj (h.symm.trans hu)
    rw [hclear ht hs]
    rfl
  · obtain rfl := Host.Outcome.next.inj ((hill s).symm.trans h)
    exact absurd (hs.symm.trans ht) (by decide)

/-- Settles O33: ERR by `exec_set_err`; of the events only the reset input and RX_CLEAR clear `RXOVF`. -/
theorem onlyTheOverflowFlagIsSticky : Obligations.OnlyTheOverflowFlagIsSticky := by
  refine ⟨fun i s e hi => exec_set_err hi s e, fun s t hst hs ht => ?step, fun s => ⟨_, exec_rxClear s, rfl⟩,
    fun s => assertReset_rxovf V s⟩
  case step =>
    cases hp : s.pending with
    | nil =>
      obtain rfl := Host.Outcome.next.inj ((step_idle hp).symm.trans hst)
      exact absurd (hs.symm.trans ht) (by decide)
    | cons e rest =>
      rw [step_event hp] at hst
      obtain rfl | ⟨w, rfl⟩ | ⟨-, hans⟩ := event_cases e
      · exact ⟨rest, .inl rfl⟩
      · obtain ⟨u, hu, -⟩ := runCommand_total w { s with pending := rest }
        rw [serveEvent_command, hu, andThen_next] at hst
        obtain rfl := Host.Outcome.next.inj hst
        exact ⟨rest, .inr (by rw [runCommand_clears_rxovf hu hs ht]; rfl)⟩
      · obtain ⟨r, hr, -⟩ := hans { s with pending := rest }
        obtain rfl := Host.Outcome.next.inj (hr.symm.trans hst)
        exact absurd (hs.symm.trans ht) (by decide)

end Sys2Proof.Proofs
end

section
/-! PROOFS: the invariants of the block (10_state.md section 8 and section 4): they hold at reset, and every step keeps them. -/

namespace Sys2Proof.Proofs

open Sys2Proof Sys2Proof.Machine Sys2Proof.Stated Sys2Proof.Laws

/-! ## The invariants of R37 -/

/-- The lengths of the request frames (R75). -/
theorem txlen_mem_lengths (K : RequestKind) :
    BitVec.ofNat 6 K.len = 0 ∨ BitVec.ofNat 6 K.len = 3 ∨ BitVec.ofNat 6 K.len = 10 ∨ BitVec.ofNat 6 K.len = 34 ∨
      BitVec.ofNat 6 K.len = 37 := by
  cases K <;> decide

/-- The invariants at reset, whatever the CRC constants. -/
theorem blockInv_resetWith (v v' : CrcVariant) : BlockInv v (State.resetWith v') where
  txlen_mem := .inl rfl
  txbuf_tail i _ := bufByte_replicate i
  rxlen_le := Nat.zero_le _
  rxbuf_tail i _ := bufByte_replicate i
  ovf_full h := Bool.noConfusion h
  no_record _ := rfl
  record h := Bool.noConfusion h
  err_le := Nat.zero_le _

section
variable {v : CrcVariant} {s : State} (h : BlockInv v s)
include h

/-- The invariants look at the block only. -/
theorem blockInv_port (p : List HostEvent) (r : List Response) :
    BlockInv v { s with pending := p, responses := r } :=
  { h with }

/-- Only `ERR` among `acc`, `FIELD` and `ERR` is under an invariant. -/
theorem blockInv_registers (a : Byte) (f : Word) {e : BitVec 4} (he : e.toNat ≤ 7) :
    BlockInv v { s with acc := a, field := f, err := e } :=
  { h with err_le := he }

/-- Without a record the invariants say nothing of `CHK`. -/
theorem blockInv_noRecord (c r : Byte) {e : BitVec 4} (he : e.toNat ≤ 7) :
    BlockInv v { s with chkCalc := c, chkRecv := r, recValid := false, recKind := 0, err := e } :=
  { h with no_record := fun _ => rfl, record := fun hv => Bool.noConfusion hv, err_le := he }

theorem blockInv_rxClear : BlockInv v (rxClear s) :=
  { h with
    rxlen_le := Nat.zero_le _
    rxbuf_tail := fun i _ => bufByte_replicate i
    ovf_full := fun ho => Bool.noConfusion ho
    no_record := fun _ => rfl
    record := fun hv => Bool.noConfusion hv
    err_le := Nat.zero_le _ }

theorem blockInv_rxPush (b : Byte) : BlockInv v (rxPush b s) := by
  by_cases hl : s.rxlen.toNat < 37
  · have hlen : (s.rxlen + 1).toNat = s.rxlen.toNat + 1 := by
      rw [BitVec.toNat_add]
      exact Nat.mod_eq_of_lt (show s.rxlen.toNat + 1 < 64 by omega)
    rw [rxPush_of_lt b hl]
    exact { h with
      rxlen_le := hlen.trans_le hl
      rxbuf_tail := fun i hi => by
        have hi : s.rxlen.toNat + 1 ≤ i := hlen.symm.trans_le hi
        refine (bufByte_bufSet s.rxbuf s.rxlen.toNat i b).trans ?_
        rw [if_neg (by omega), h.rxbuf_tail i (by omega)]
      ovf_full := fun ho => absurd hl (by rw [h.ovf_full ho]; decide)
      no_record := fun _ => rfl
      record := fun hv => Bool.noConfusion hv
      err_le := Nat.zero_le _ }
  · have hfull : s.rxlen = 37 := BitVec.eq_of_toNat_eq (Nat.le_antisymm h.rxlen_le (Nat.not_lt.mp hl))
    rw [rxPush_of_full b hl]
    exact { h with
      ovf_full := fun _ => hfull
      no_record := fun _ => rfl
      record := fun hv => Bool.noConfusion hv
      err_le := (by decide : (4 : BitVec 4).toNat ≤ 7) }

theorem blockInv_encodeFrame (p : Params) (k : BitVec 4) : BlockInv v (encodeFrame p k s) := by
  obtain ⟨K, -, hs⟩ | ⟨-, hs⟩ := encodeFrame_cases p k s <;> rw [hs]
  · exact { h with
      txlen_mem := txlen_mem_lengths K
      txbuf_tail := fun i hi => by
        have hi : K.len ≤ i := (txlen_toNat K).symm.trans_le hi
        exact bufByte_bufOf_of_length_le _ (by rwa [reqImage_length])
      err_le := Nat.zero_le _ }
  · exact blockInv_registers h s.acc s.field (by decide)

theorem blockInv_decodeReply (k : BitVec 4) : BlockInv v (decodeReply v k s) := by
  obtain ⟨-, hs⟩ | ⟨K, -, ⟨-, hs⟩ | ⟨ho, hl, ⟨-, hs⟩ | ⟨hc, hs⟩⟩⟩ := decodeReply_cases v k s <;> rw [hs]
  · exact blockInv_noRecord h s.chkCalc s.chkRecv (by decide)
  · exact blockInv_noRecord h s.chkCalc s.chkRecv (by decide)
  · exact blockInv_noRecord h _ _ (by decide)
  · exact { h with
      no_record := fun hv => Bool.noConfusion hv
      record := fun _ => ⟨K, rfl, ho, hl, hc⟩
      err_le := Nat.zero_le _ }

theorem blockInv_selectField (bits : RtcBits) (sel : Byte) : BlockInv v (selectField bits sel s) := by
  obtain ⟨-, hs⟩ | ⟨-, -, hs⟩ | ⟨x, -, -, hs⟩ := selectField_cases bits sel s <;> rw [hs]
  all_goals exact blockInv_registers h s.acc _ (by decide)

end

/-- Every command keeps the invariants. -/
theorem blockInv_exec {i : Instr} {s t : State} (h : BlockInv V s) (ht : exec i s = .next t) : BlockInv V t := by
  cases i <;> obtain rfl := Host.Outcome.next.inj ht
  case nop => exact h
  case crcInit => exact blockInv_registers h _ s.field (by decide)
  case crcByte b => exact blockInv_registers h _ s.field (by decide)
  case rxClear => exact blockInv_rxClear h
  case rxPush b => exact blockInv_rxPush h b
  case encode k => exact blockInv_encodeFrame h P k
  case decode k => exact blockInv_decodeReply h k
  case field sel => exact blockInv_selectField h P.rtcBits sel

/-- Settles O43: over everything a step can leave of the block (`step_cases`). -/
theorem everyStepKeepsTheInvariants : Obligations.EveryStepKeepsTheInvariants := by
  intro s t h hst
  obtain ⟨p, r, rfl⟩ | ⟨p, r, rfl⟩ | ⟨i, u, p, r, hu, rfl⟩ | ⟨p, r, rfl⟩ := step_cases hst
  · exact blockInv_port h p r
  · exact blockInv_port (blockInv_resetWith V V) p r
  · exact blockInv_port (blockInv_exec h hu) p r
  · exact blockInv_port (blockInv_registers h s.acc s.field (by decide)) p r

/-! ## The request in `TXBUF` -/

/-- Whether `TXBUF` holds a request depends on `TXBUF` and `TXLEN` only. -/
theorem txHoldsRequest_congr {p : Params} {s t : State} (h : TxHoldsRequest p s) (hbuf : t.txbuf = s.txbuf)
    (hlen : t.txlen = s.txlen) : TxHoldsRequest p t := by
  rwa [TxHoldsRequest, hbuf, hlen]

theorem txHoldsRequest_reset : TxHoldsRequest P State.reset :=
  .inl ⟨rfl, rfl⟩

/-- Every command keeps the request, or writes one (O23, O31). -/
theorem txHoldsRequest_exec {i : Instr} {s t : State} (h : TxHoldsRequest P s) (ht : exec i s = .next t) :
    TxHoldsRequest P t := by
  by_cases hi : ∃ k : RequestKind, i = .encode (requestCode k)
  · obtain ⟨k, rfl⟩ := hi
    obtain ⟨-, -, frame, -⟩ := encodeBuildsTheRequestFrame
    obtain ⟨u, hu, -, hlen, himage, htail, -⟩ := frame k s
    obtain rfl := Host.Outcome.next.inj (hu.symm.trans ht)
    exact .inr ⟨k, hlen, himage, htail⟩
  · obtain ⟨u, hu, -, htx, -⟩ := onlyTheNamedCommandsChangeAnElement i s
    obtain rfl := Host.Outcome.next.inj (hu.symm.trans ht)
    obtain ⟨hbuf, hlen⟩ := not_or.mp (mt htx hi)
    exact txHoldsRequest_congr h (not_not.mp hbuf) (not_not.mp hlen)

/-- Settles O44: over everything a step can leave of the block (`step_cases`). -/
theorem everyStepKeepsTheRequestInTheBuffer : Obligations.EveryStepKeepsTheRequestInTheBuffer := by
  intro s t h hst
  obtain ⟨p, r, rfl⟩ | ⟨p, r, rfl⟩ | ⟨i, u, p, r, hu, rfl⟩ | ⟨p, r, rfl⟩ := step_cases hst
  · exact txHoldsRequest_congr h rfl rfl
  · exact txHoldsRequest_congr txHoldsRequest_reset rfl rfl
  · exact txHoldsRequest_congr (txHoldsRequest_exec h hu) rfl rfl
  · exact txHoldsRequest_congr h rfl rfl

/-- Settles O42. -/
theorem resetMeetsTheInvariants : Obligations.ResetMeetsTheInvariants :=
  ⟨blockInv_resetWith V V, txHoldsRequest_reset⟩

end Sys2Proof.Proofs
end

section
/-! PROOFS: the host's transactions (43_host_operations.md section 2): what the host hands over, and how the outcome follows the
transport, the reply and the record. -/

namespace Sys2Proof.Proofs

open Sys2Proof Sys2Proof.Machine Sys2Proof.Stated Sys2Proof.Laws

/-! ## What the host issues and reads -/

theorem issueAll_eq_runCommands (is : List Instr) (s : State) : issueAll is s = runCommands is s := by
  induction is generalizing s with
  | nil => rfl
  | cons i is ih =>
    obtain ⟨t, ht⟩ := exec_total i s
    rw [issueAll, issue, runCommand_encode, runCommands_cons, ht, andThen_next, andThen_next, ih]

theorem readErr_eq (v : CrcVariant) (s : State) : readErr v s = s.err :=
  status_err v s

/-- ENCODE of a request kind reports NONE (R126). -/
theorem readErr_encodeFrame (k : RequestKind) (s : State) : readErr V (encodeFrame P (requestCode k) s) = 0 := by
  rw [readErr_eq, encodeFrame_request]

/-! ## Fire and forget -/

/-- The result of a fire-and-forget operation for an outcome of the exchange (R162). -/
def fireOutcome : Exchange → TransactionOutcome
  | .transportError => .transportError
  | .reply _ => .success []

/-- A fire-and-forget operation as a whole: the request image, the result, and the block as ENCODE or the reset leaves it. -/
theorem opFireAndForget_eq (k : FireAndForget) (x : Exchange) (resets : Bool) (s : State) :
    opFireAndForget P k x resets s =
      .next ⟨some (reqImage P (fireRequest k)), fireOutcome x,
        if resets then assertReset V (encodeFrame P (requestCode (fireRequest k)) s)
        else encodeFrame P (requestCode (fireRequest k)) s⟩ := by
  rw [opFireAndForget, issue, runCommand_encode, exec_encode, andThen_next,
    if_neg (not_not.mpr (readErr_encodeFrame (fireRequest k) s)), txRead_encodeFrame]
  cases x <;> rfl

/-- Settles O58: `opFireAndForget_eq`, with the frame of ENCODE where the block is not reset. -/
theorem fireAndForgetDependsOnlyOnTheTransport : Obligations.FireAndForgetDependsOnlyOnTheTransport := by
  intro k x resets s
  refine ⟨_, opFireAndForget_eq k x resets s, rfl, ?transportError, ?reply, ?kept, ?reset⟩
  case transportError => exact fun hx => congrArg fireOutcome hx
  case reply => exact fun bytes hx => congrArg fireOutcome hx
  case kept =>
    rintro rfl
    rw [if_neg Bool.false_ne_true, encodeFrame_request]
  case reset =>
    rintro rfl
    rw [if_pos rfl, encodeFrame_request]
    rfl

/-! ## Queries -/

theorem opQuery_transportError (q : Query) (sels : List Byte) (s : State) :
    opQuery P q .transportError sels s =
      .next ⟨some (reqImage P (queryRequest q)), .transportError, encodeFrame P (requestCode (queryRequest q)) s⟩ := by
  rw [opQuery, issue, runCommand_encode, exec_encode, andThen_next,
    if_neg (not_not.mpr (readErr_encodeFrame (queryRequest q) s)), txRead_encodeFrame]

theorem opQuery_reply (q : Query) (bytes sels : List Byte) (s : State) :
    opQuery P q (.reply bytes) sels s =
      takeReply P q (reqImage P (queryRequest q)) bytes sels (encodeFrame P (requestCode (queryRequest q)) s) := by
  rw [opQuery, issue, runCommand_encode, exec_encode, andThen_next,
    if_neg (not_not.mpr (readErr_encodeFrame (queryRequest q) s)), txRead_encodeFrame]

section
variable {q : Query} {s t : State} {T bytes sels : List Byte}

/-- The values of a record's fields are read one after the other (R163). -/
theorem readFields_of_values {values : List Word} (hv : t.recValid = true)
    (h : sels.mapM (fun sel => fieldValue P.rtcBits t.recKind sel t.rxbuf) = some values) :
    ∃ u, readFields P sels t = .next (.ok values, u) := by
  induction sels generalizing t values with
  | nil =>
    obtain rfl := Option.some.inj h
    exact ⟨t, rfl⟩
  | cons sel sels ih =>
    simp only [List.mapM_cons, Option.bind_eq_bind, Option.bind_eq_some_iff, Option.pure_def, Option.some.injEq] at h
    obtain ⟨x, hx, xs, hxs, rfl⟩ := h
    obtain ⟨u, hu⟩ := ih (t := { t with field := x, err := 0 }) hv hxs
    have hfield : issue (.field sel) t = .next { t with field := x, err := 0 } := by
      rw [issue, runCommand_encode, exec_field, selectField_value P.rtcBits hv hx]
    have herr : readErr P.crc { t with field := x, err := 0 } = 0 := readErr_eq V _
    refine ⟨u, ?_⟩
    rw [readFields, hfield, andThen_next, if_neg (not_not.mpr herr), hu, andThen_next, windowWord_reg]
    rfl

section
variable (h : runCommands (rxLoadCommands bytes ++ [.decode (replyCode (queryReply q))]) s = .next t)
include h

theorem takeReply_lengthMismatch (herr : t.err = 1) :
    takeReply P q T bytes sels s = .next ⟨some T, .lengthMismatch, t⟩ := by
  have hread : readErr P.crc t = ErrCode.lengthMismatch.code := (readErr_eq V t).trans herr
  rw [takeReply, issueAll_eq_runCommands, h, andThen_next]
  simp only [hread, if_true]

theorem takeReply_checksumMismatch (herr : t.err = 2) :
    takeReply P q T bytes sels s = .next ⟨some T, .checksumMismatch, t⟩ := by
  have hread : readErr P.crc t = ErrCode.checksumMismatch.code := (readErr_eq V t).trans herr
  rw [takeReply, issueAll_eq_runCommands, h, andThen_next]
  simp only [hread]
  rfl

theorem takeReply_success (herr : t.err = 0) {values : List Word} {u : State}
    (hfields : readFields P sels t = .next (.ok values, u)) :
    takeReply P q T bytes sels s = .next ⟨some T, .success values, u⟩ := by
  have hread : readErr P.crc t = 0 := (readErr_eq V t).trans herr
  rw [takeReply, issueAll_eq_runCommands, h, andThen_next]
  simp only [hread, hfields]
  rfl

end

/-- A query whose reply is a sealed frame of the kind's length reads the entries of that frame. -/
theorem opQuery_sealed {body : List Byte} {values : List Word} (hlen : body.length + 1 = (queryReply q).len)
    (h : sels.mapM (fun sel => (fieldEntry P.rtcBits (queryReply q) sel).map (entryValue (bufOf (sealFrame V body)))) =
      some values) (s : State) :
    ∃ u, opQuery P q (.reply (sealFrame V body)) sels s =
      .next ⟨some (reqImage P (queryRequest q)), .success values, u⟩ := by
  obtain ⟨t, ht, err, valid, kind, buf⟩ := decode_sealed hlen [] (encodeFrame P (requestCode (queryRequest q)) s)
  simp only [← fieldValue_reply, ← kind, ← buf] at h
  obtain ⟨u, hu⟩ := readFields_of_values valid h
  exact ⟨u, (opQuery_reply q _ sels s).trans (takeReply_success ht err hu)⟩

end

/-- Settles O60: in the frame of a record each selector's entry reads the value it names. -/
theorem theQueriesReturnTheRecord : Obligations.TheQueriesReturnTheRecord := by
  refine ⟨fun r sels values s h => ?housekeeping, fun r sels values s h => ?version⟩
  case housekeeping =>
    simp only [← housekeepingEntry_frame] at h
    obtain ⟨u, hu⟩ := opQuery_sealed (q := .getHousekeeping) (by rw [housekeepingBody_length]; rfl) h s
    exact ⟨_, hu, rfl⟩
  case version =>
    simp only [← versionEntry_frame] at h
    obtain ⟨u, hu⟩ := opQuery_sealed (q := .getVersion) (by rw [versionBody_length]; rfl) h s
    exact ⟨_, hu, rfl⟩

/-- A partial function defined on every member of a list maps the list. -/
theorem exists_mapM_of_isSome {α β : Type} {f : α → Option β} {l : List α} (h : ∀ a ∈ l, (f a).isSome) :
    ∃ bs, l.mapM f = some bs ∧ bs.length = l.length := by
  induction l with
  | nil => exact ⟨[], rfl, rfl⟩
  | cons a l ih =>
    obtain ⟨ha, hl⟩ := List.forall_mem_cons.mp h
    obtain ⟨b, hb⟩ := Option.isSome_iff_exists.mp ha
    obtain ⟨bs, hbs, hlen⟩ := ih hl
    exact ⟨b :: bs, by simp [hb, hbs], by simp [hlen]⟩

/-- A sealed reply has a value for every selector of its kind. -/
theorem opQuery_sealed_values {q : Query} {sels body : List Byte} (hlen : body.length + 1 = (queryReply q).len)
    (h : ∀ sel ∈ sels, (fieldEntry P.rtcBits (queryReply q) sel).isSome) (s : State) :
    ∃ values u, values.length = sels.length ∧ opQuery P q (.reply (sealFrame V body)) sels s =
      .next ⟨some (reqImage P (queryRequest q)), .success values, u⟩ := by
  obtain ⟨values, hvalues, hcount⟩ := exists_mapM_of_isSome
    (f := fun sel => (fieldEntry P.rtcBits (queryReply q) sel).map (entryValue (bufOf (sealFrame V body))))
    fun sel hsel => Option.isSome_map.trans (h sel hsel)
  obtain ⟨u, hu⟩ := opQuery_sealed hlen hvalues s
  exact ⟨values, u, hcount, hu⟩

theorem opQuery_wrong_length {q : Query} {bytes : List Byte} (h : bytes.length ≠ (queryReply q).len) (sels : List Byte)
    (s : State) :
    ∃ u, opQuery P q (.reply bytes) sels s = .next ⟨some (reqImage P (queryRequest q)), .lengthMismatch, u⟩ := by
  obtain ⟨t, ht, herr, -⟩ := wrongLengthIsALengthMismatch (queryReply q) bytes _ h
  exact ⟨t, (opQuery_reply q bytes sels s).trans (takeReply_lengthMismatch ht herr)⟩

theorem opQuery_wrong_checksum {q : Query} {body : List Byte} {c : Byte} (h : body.length + 1 = (queryReply q).len)
    (hc : crc8 V body ≠ c) (sels : List Byte) (s : State) :
    ∃ u, opQuery P q (.reply (body ++ [c])) sels s =
      .next ⟨some (reqImage P (queryRequest q)), .checksumMismatch, u⟩ := by
  obtain ⟨t, ht, herr, -⟩ := decode_wrong_checksum h hc _
  exact ⟨t, (opQuery_reply q _ sels s).trans (takeReply_checksumMismatch ht herr)⟩

/-- Settles O59: a reply has the wrong length, or a wrong last byte, or is a sealed frame. -/
theorem queryOutcomesFollowTheReply : Obligations.QueryOutcomesFollowTheReply := by
  refine fun q sels s hsels => ⟨⟨_, opQuery_transportError q sels s, rfl, rfl⟩, fun bytes => ?_⟩
  by_cases hlen : bytes.length = (queryReply q).len
  case neg =>
    obtain ⟨u, hu⟩ := opQuery_wrong_length hlen sels s
    exact ⟨_, hu, rfl, fun _ => rfl, fun _ _ _ h => absurd h hlen⟩
  have hpos := (replyLen_le (queryReply q)).1
  obtain rfl | ⟨body, c, rfl⟩ := List.eq_nil_or_concat' bytes
  · exact absurd hlen (show 0 ≠ _ by omega)
  have hbody : body.length + 1 = (queryReply q).len := by simpa using hlen
  have hcut {body' : List Byte} {c' : Byte} (h : body ++ [c] = body' ++ [c']) : body = body' ∧ c = c' := by simpa using h
  by_cases hc : c = crc8 V body
  case pos =>
    obtain ⟨values, u, hcount, hu⟩ := opQuery_sealed_values hbody hsels s
    refine ⟨_, by rw [hc]; exact hu, rfl, fun h => absurd hlen h, fun body' c' h _ => ?_⟩
    obtain ⟨rfl, rfl⟩ := hcut h
    exact ⟨fun hne => absurd hc hne, fun _ => ⟨values, rfl, hcount⟩⟩
  case neg =>
    obtain ⟨u, hu⟩ := opQuery_wrong_checksum hbody (Ne.symm hc) sels s
    refine ⟨_, hu, rfl, fun h => absurd hlen h, fun body' c' h _ => ?_⟩
    obtain ⟨rfl, rfl⟩ := hcut h
    exact ⟨fun _ => rfl, fun heq => absurd heq hc⟩

end Sys2Proof.Proofs
end
